-- ==== Sys2Proof/Word.lean ====
section
/-! DEFINITION. The widths the spec gives its data: a byte (R61), a 16-bit word (command words R81, `count` R24, the client's
numbers R126) and a 20-bit response word (R82). -/

namespace Sys2Proof

/-- One element of every storage space: 8 bits (R61). -/
abbrev Byte := BitVec 8

/-- A command word (R80(a)), a `count` (R24) or a client number of `W_NUM` bits (R126): 16 bits. -/
abbrev Word := BitVec 16

/-- A response word (R80(b), R82): 20 bits. -/
abbrev RspWord := BitVec 20

end Sys2Proof
end

