-- ==== Sys2Proof/Config.lean ====
section
/-! DEFINITION. The parameters of the model (R6, R50), its fixed constants, the names of the agents (R9) and of the event
vectors (R88), and every FREE VALUE: an opaque constant with no body, so that nothing can be proved of its value. -/

namespace Sys2Proof

/-- The two interrupt-context behaviours, numbered as labels only: vector 0 is the receive event, vector 1 the transmit-ready
event (R88). -/
inductive EventVector where
  | rx
  | tx
  deriving DecidableEq, Repr, Inhabited

/-- The four agents that take steps (R9). An entry for IRQ says which handler starts. -/
inductive Agent where
  | main
  | irq (v : EventVector)
  | lineRx
  | lineTx
  deriving DecidableEq, Repr, Inhabited

/-- `IRQ_ORDER`: which of two simultaneously pending events is served first (R6, R189). -/
inductive IrqOrder where
  | any
  | rxFirst
  | txFirst
  deriving DecidableEq, Repr

/-- A ring capacity, `1 ≤ N ≤ 65535` (R6): a model does not build any other (U9). Log 24. -/
structure Capacity where
  n : Nat
  pos : 1 ≤ n := by decide
  le : n ≤ 65535 := by decide
  deriving DecidableEq, Repr

/-- The parameters the spec leaves open (R6, R50). They are fixed for one machine: no step writes them. Log 12. -/
structure Config where
  /-- `N_RX`. -/
  nRx : Capacity
  /-- `N_TX`. -/
  nTx : Capacity
  /-- `BAUD_VALID`, the valid baud-rate selectors. -/
  baudValid : List Byte
  /-- `IRQ_ORDER`. -/
  irqOrder : IrqOrder
  /-- `HAS_CLIENT`. -/
  hasClient : Bool
  deriving DecidableEq, Repr

/-- The default `BAUD_VALID = 0x00..0x07` (R6, D21). -/
def Config.defaultBauds : List Byte := [0x00, 0x01, 0x02, 0x03, 0x04, 0x05, 0x06, 0x07]

/-- The parameters `State.reset` is built with: the spec's defaults where R6 gives one; `N_RX = 8` and `N_TX = 32`, the sizes of
test vectors S5 and PROG5, where it gives none (DESIGN CHOICE, log 12). Statements quantify over every `Config`. -/
def Config.default : Config :=
  { nRx := { n := 8 }, nTx := { n := 32 }, baudValid := Config.defaultBauds,
    irqOrder := .any, hasClient := true }

/-- `L`, the capacity of the client's line and command buffers (R6, R49). -/
abbrev lineCap : Nat := 8

/-- `TERM`, the line terminator (R6). -/
def lineTerm : Byte := 0x0A

/-- `SENTINEL`, what `read_byte` returns on an empty ring (R6, R127). -/
def sentinel : Word := 0x0000

/-- A decimal number as an external collaborator prints it: an optional sign and one or more digits (R170 fixes the shape of the
responses, not the values or the padding; log 11). -/
structure NumText where
  neg : Bool
  lead : Fin 10
  rest : List (Fin 10)
  deriving DecidableEq, Repr, Inhabited

/-- The six numbers of a date/time response, `<day>.<month>.<year> <h>:<m>:<s>` (R170). -/
structure ClockText where
  day : NumText
  month : NumText
  year : NumText
  hour : NumText
  minute : NumText
  second : NumText
  deriving DecidableEq, Repr, Inhabited

/-! Free values. Each is applied to `State.inputs.draws`, a counter that the step which takes the value advances. -/

/-- Which agent the scheduler picks once the given schedule is exhausted (R10, R50; log 1). -/
opaque Config.freeAgent : Nat → Agent

/-- What a slot that was never written holds (R21; log 7). -/
opaque Config.freeByte : Nat → Byte

/-- Whether a device overrun keeps the newly arrived byte (R146, U5; log 9). -/
opaque Config.freeOverrun : Nat → Bool

/-- The result of parsing an integer outside -32768..32767 (R168, U7; log 10). -/
opaque Config.freeNum : Nat → Word

/-- What the receive status port reads before the register is defined (R52, U4; log 8). The number is the read's own. -/
opaque Config.freeRxStatus : Nat → BitVec 2

/-- What the transmit status port reads before the register is defined (R52, U4; log 8). -/
opaque Config.freeTxStatus : Nat → BitVec 2

/-- The readings behind a `T?` response, one pair of whole and fractional degrees per probe (R170, U12; log 11). -/
opaque Config.probeReadings : Nat → List (NumText × NumText)

/-- The reading behind a `D?` response (R170, U12; log 11). -/
opaque Config.clockReading : Nat → ClockText

/-- The readings behind an `H?` response: humidity, temperature (R170, U12; log 11). -/
opaque Config.humidityReading : Nat → NumText × NumText

end Sys2Proof
end

