-- ==== Sys2Proof/Syntax.lean ====
section
/-! DEFINITION. The instructions: one constructor per row of spec/opcode_table.json (R84, R88). Sixteen are selected by a
command word (the reserved opcode 0xD among them, R85), two are the interrupt-context behaviours. -/

namespace Sys2Proof

/-- The ring instance the `ring` bit selects: 0 is RX, 1 is TX (R81). -/
inductive RingId where
  | rx
  | tx
  deriving DecidableEq, Repr

inductive Instr where
  /-- `RB_INIT r` (R101). -/
  | rbInit (r : RingId)
  /-- `RB_INSERT r, b` (R102). -/
  | rbInsert (r : RingId) (b : Byte)
  /-- `RB_REMOVE r` (R104). -/
  | rbRemove (r : RingId)
  /-- `RB_COUNT r` (R106). -/
  | rbCount (r : RingId)
  /-- `RB_ISEMPTY r` (R107). -/
  | rbIsempty (r : RingId)
  /-- `RB_ISFULL r` (R108). -/
  | rbIsfull (r : RingId)
  /-- `RB_FLUSH r` (R109). -/
  | rbFlush (r : RingId)
  /-- `SYS_GIE e`: `imm8`, of which only bit 0 is used (R83, R130). -/
  | sysGie (imm : Byte)
  /-- `ST_INIT sel` (R121). -/
  | stInit (sel : Byte)
  /-- `ST_WRITE_BYTE b` (R124). -/
  | stWriteByte (b : Byte)
  /-- `ST_READ_BYTE` (R127). -/
  | stReadByte
  /-- `ST_AVAIL` (R128). -/
  | stAvail
  /-- `ST_WAIT_TC` (R129). -/
  | stWaitTc
  /-- The reserved opcode 0xD with its other twelve bits (R85(a)). -/
  | reservedD (x : BitVec 12)
  /-- `LA_POLL` (R162). -/
  | laPoll
  /-- `LA_DISPATCH` (R167). -/
  | laDispatch
  /-- The receive event, vector 0 (R142). -/
  | evRx
  /-- The transmit-ready event, vector 1 (R144). -/
  | evTx
  deriving DecidableEq, Repr

/-- The rows that a command word selects; the two events have no command encoding (R88, D40). -/
def Instr.isCommand : Instr → Bool
  | .evRx => false
  | .evTx => false
  | _ => true

end Sys2Proof
end

