-- ==== Sys2Proof/WellFormed.lean ====
section
/-! DEFINITION. Which instruction terms some encoding stands for. The operand types already exclude every other ill-formed
term: a ring is RX or TX, a byte operand has 8 bits, a reserved word 12 free bits. -/

namespace Sys2Proof

/-- `SYS_GIE`: of `imm8` only bit 0 is used and bits 7:1 must be zero (R83, R85(e)). Every other operand value is legal. -/
def Instr.wf : Instr → Bool
  | .sysGie imm => imm.extractLsb' 1 7 == 0
  | _ => true

end Sys2Proof
end

