-- ==== Sys2Proof/Decode.lean ====
section
/-! DEFINITION. The decoder of the command port, total on every 16-bit word (R86) and rejecting by name (R85), the label of an
event vector (R88), and after them the encoder, from the formats of R81 and the rows of R84. -/

namespace Sys2Proof

/-- What stands for an instruction: a command word (R81) or the number of an event vector (R88). -/
inductive Code where
  | command (w : Word)
  | vector (v : BitVec 1)
  deriving DecidableEq, Repr

/-- Why a command word is illegal (R85 (b) to (e)); each is answered `F_ILLEGAL`. -/
inductive Reject where
  /-- One of bits 10:8 is 1 (R85(b)). -/
  | reservedBits
  /-- Bit 11 is 1 with `op ≥ 0x7` (R85(c)). -/
  | ringBit
  /-- `imm8 ≠ 0` in an operation that has no operand (R85(d)). -/
  | operandBits
  /-- Bits 7:1 set in `SYS_GIE` (R85(e)). -/
  | gieBits
  deriving DecidableEq, Repr

/-- `CMD[15:12]` (R81). -/
def opField (w : Word) : BitVec 4 := w.extractLsb' 12 4

/-- `CMD[11]`, the `ring` bit (R81). -/
def ringField (w : Word) : BitVec 1 := w.extractLsb' 11 1

/-- `CMD[10:8]`, reserved (R81). -/
def reservedField (w : Word) : BitVec 3 := w.extractLsb' 8 3

/-- `CMD[7:0]`, `imm8` (R83). -/
def immField (w : Word) : Byte := w.extractLsb' 0 8

/-- `ring`: 0 is RX, 1 is TX (R81). -/
def RingId.ofBit (b : BitVec 1) : RingId := if b = 0 then .rx else .tx

/-- The `ring` bit of an instance (R81). -/
def RingId.toBit : RingId → BitVec 1
  | .rx => 0
  | .tx => 1

/-- Format `R`: the word has a ring and no operand (R81, R85(d)). -/
def decodeR (w : Word) (mk : RingId → Instr) : Except Reject Instr :=
  if immField w = 0 then .ok (mk (RingId.ofBit (ringField w))) else .error .operandBits

/-- Format `RI`: a ring and a byte operand (R81). -/
def decodeRI (w : Word) (mk : RingId → Byte → Instr) : Except Reject Instr :=
  .ok (mk (RingId.ofBit (ringField w)) (immField w))

/-- Format `T` with an operand: bit 11 must be zero (R81, R85(c)). -/
def decodeTI (w : Word) (mk : Byte → Instr) : Except Reject Instr :=
  if ringField w = 0 then .ok (mk (immField w)) else .error .ringBit

/-- Format `T` without an operand: bit 11 and `imm8` must be zero (R81, R85(c), R85(d)). -/
def decodeT (w : Word) (i : Instr) : Except Reject Instr :=
  if ringField w = 0 then (if immField w = 0 then .ok i else .error .operandBits) else .error .ringBit

/-- `SYS_GIE`: bit 11 and bits 7:1 must be zero (R85(c), R85(e)). -/
def decodeGie (w : Word) : Except Reject Instr :=
  if ringField w = 0 then
    (if (immField w).extractLsb' 1 7 = 0 then .ok (.sysGie (immField w)) else .error .gieBits)
  else .error .ringBit

/-- The rows of R84 for a word whose bits 10:8 are zero and whose opcode is not 0xD. -/
def decodeRow (w : Word) : Except Reject Instr :=
  match (opField w).toNat with
  | 0x0 => decodeR w .rbInit
  | 0x1 => decodeRI w .rbInsert
  | 0x2 => decodeR w .rbRemove
  | 0x3 => decodeR w .rbCount
  | 0x4 => decodeR w .rbIsempty
  | 0x5 => decodeR w .rbIsfull
  | 0x6 => decodeR w .rbFlush
  | 0x7 => decodeGie w
  | 0x8 => decodeTI w .stInit
  | 0x9 => decodeTI w .stWriteByte
  | 0xA => decodeT w .stReadByte
  | 0xB => decodeT w .stAvail
  | 0xC => decodeT w .stWaitTc
  | 0xE => decodeT w .laPoll
  | _ => decodeT w .laDispatch

/-- The decoder of the command port (R84 to R86): opcode 0xD is the reserved row whatever its other bits, then bits 10:8. -/
def decodeCommand (w : Word) : Except Reject Instr :=
  if opField w = 0xD then .ok (.reservedD (w.extractLsb' 0 12))
  else if reservedField w = 0 then decodeRow w
  else .error .reservedBits

/-- The behaviour a vector number labels (R88). -/
def decodeVector (v : BitVec 1) : Instr := if v = 0 then .evRx else .evTx

/-- The decoder of both kinds of code. -/
def decode : Code → Except Reject Instr
  | .command w => decodeCommand w
  | .vector v => .ok (decodeVector v)

/-- A command word from its fields, bit 15 first (R81): `op`, `ring`, three zero bits, `imm8`. -/
def packWord (op : BitVec 4) (ring : BitVec 1) (imm : Byte) : Word := op ++ ring ++ (0 : BitVec 3) ++ imm

/-- The code of an instruction (R84, R88). -/
def encode : Instr → Code
  | .rbInit r => .command (packWord 0x0 r.toBit 0)
  | .rbInsert r b => .command (packWord 0x1 r.toBit b)
  | .rbRemove r => .command (packWord 0x2 r.toBit 0)
  | .rbCount r => .command (packWord 0x3 r.toBit 0)
  | .rbIsempty r => .command (packWord 0x4 r.toBit 0)
  | .rbIsfull r => .command (packWord 0x5 r.toBit 0)
  | .rbFlush r => .command (packWord 0x6 r.toBit 0)
  | .sysGie imm => .command (packWord 0x7 0 imm)
  | .stInit sel => .command (packWord 0x8 0 sel)
  | .stWriteByte b => .command (packWord 0x9 0 b)
  | .stReadByte => .command (packWord 0xA 0 0)
  | .stAvail => .command (packWord 0xB 0 0)
  | .stWaitTc => .command (packWord 0xC 0 0)
  | .reservedD x => .command ((0xD : BitVec 4) ++ x)
  | .laPoll => .command (packWord 0xE 0 0)
  | .laDispatch => .command (packWord 0xF 0 0)
  | .evRx => .vector 0
  | .evTx => .vector 1

/-- The code that `nbits` bits of value `w` hold, numbered as the opcode table numbers them: a command word has 16 bits, a vector
one bit, which stands in a byte (log 22). -/
def codeOfBits (nbits w : Nat) : Option Code :=
  if nbits = 16 then (if w < 2 ^ 16 then some (.command (BitVec.ofNat 16 w)) else none)
  else if nbits ≤ 8 then (if w < 2 then some (.vector (BitVec.ofNat 1 w)) else none)
  else none

/-- What the decoder reads from an instruction of `nbits` bits whose value is `w`. -/
def decodeTableWord (nbits w : Nat) : Option Instr :=
  match codeOfBits nbits w with
  | some c => (decode c).toOption
  | none => none

end Sys2Proof
end

