-- ==== Sys2Proof/Machine/State.lean ====
section
/-! DEFINITION. The state of the machine as plain data: everything 10_state.md names, the inputs of the run that a deterministic
step needs (R50) and the observations of it (R45), and the state after power-on reset (R51, R210). -/

namespace Sys2Proof.Machine

/-- The storage of one ring: the slots that have been written, slot index and byte, indices strictly rising. A slot that is not
listed was never written and has no value (R21, log 7). -/
abbrev Mem := List Host.Cell

/-- The canonical form: strictly rising indices. No entry can equal what an unlisted slot reads as, which is no value. -/
abbrev Mem.wf (m : Mem) : Prop := m.Pairwise (fun a b => a.1 < b.1)

/-- A ring instance (R20 to R25). -/
structure Ring where
  /-- `r.storage` (R21). -/
  storage : Mem
  /-- `r.in`, the write cursor (R22). -/
  inp : Nat
  /-- `r.out`, the read cursor (R23). -/
  out : Nat
  /-- `r.count`, the occupancy (R24). -/
  count : Word
  /-- `r.initialized` (R25). -/
  initialized : Bool
  deriving DecidableEq, Repr

/-- The status enum of each direction (R33). -/
inductive Status where
  | idleEmpty
  | dataPending
  | transmitting
  | bufferFull
  deriving DecidableEq, Repr

/-- The transport's control and status registers (R33 to R40). -/
structure Transport where
  rxStatus : Status
  txStatus : Status
  /-- The model's own: has a write defined `rxStatus` since power-on (R52, log 8). -/
  rxStatusSet : Bool
  /-- The model's own: has a write defined `txStatus` since power-on (R52, log 8). -/
  txStatusSet : Bool
  /-- `st_initialized` (R37). -/
  initialized : Bool
  baud : Byte
  rxIe : Bool
  txIe : Bool
  deriving DecidableEq, Repr

/-- `halted`, `fault_seen`, `fault_code` (R42). -/
structure FaultRecord where
  halted : Bool
  seen : Bool
  code : BitVec 4
  deriving DecidableEq, Repr

/-- The line device (R43, R44). -/
structure Line where
  /-- `line_on`. -/
  on : Bool
  rxData : Byte
  rxPending : Bool
  txData : Byte
  txReady : Bool
  deriving DecidableEq, Repr

/-- Interrupt masking and context: `gie` (R41), `in_irq` (R47) and the interrupt states saved by the open critical sections, the
innermost first (R48, log 13). -/
structure Contexts where
  gie : Bool
  inIrq : Bool
  critSaved : List Bool
  deriving DecidableEq, Repr

/-- `m_phase`: the micro-step MAIN's operation has reached (R46). Names `i0` to `t1` and `p1` are the spec's (R110, R131, R162);
the others name lines of pseudocode the spec leaves unnamed (log 14). -/
inductive Phase where
  /-- No operation is in progress. -/
  | idle
  /-- The one micro-step of `RB_COUNT`, `RB_ISEMPTY`, `RB_ISFULL`, `ST_AVAIL`, `SYS_GIE`. -/
  | single
  /-- `r.in <- 0`, `r.out <- 0`, `atomic { r.count <- 0 }`, `r.initialized <- 1` of R101, in this order. -/
  | initIn (r : RingId)
  | initOut (r : RingId)
  | initCount (r : RingId)
  | initMark (r : RingId)
  /-- The other assignments of R121, in this order. -/
  | cfgBaud
  | cfgLineOn
  | cfgRxPending
  | cfgTxReady
  | cfgRxStatus
  | cfgTxStatus
  | cfgTxIe
  | cfgRxIe
  | cfgMark
  /-- Insert (R103, R102). -/
  | i0
  | i1
  | i2
  | i3
  /-- Remove (R105, R104). -/
  | x0
  | x1
  | x2
  | x3
  /-- Flush (R109). -/
  | f1
  /-- Write byte (R124). -/
  | w1
  | w2
  /-- Read byte (R127). -/
  | g1
  | g2
  /-- Wait for transmit complete (R129). -/
  | t1
  /-- Poll (R162). -/
  | p1
  /-- The handoff (R165), `widx <- 0`, `cmd_ready <- 1` (R162). -/
  | handoff
  | handoffIdx
  | handoffReady
  /-- `line_buf[widx] <- b`, `widx <- widx + 1` (R163). -/
  | store
  | storeIdx
  /-- Dispatch (R167): the tests, the assignment, `cmd_ready <- 0`. -/
  | route
  | assign
  | done
  deriving DecidableEq, Repr

/-- The sequencing state of MAIN (R46) and the two local variables of its operation (the model's own, log 18). -/
structure MainSeq where
  /-- `m_op`, `none` is NONE. -/
  op : Option Instr
  /-- `m_phase`. -/
  phase : Phase
  /-- The local variable `b` of R104, R109, R127 and R162. -/
  byte : Byte
  /-- The bytes a query has still to send through `write_byte` (R169, R170). -/
  toSend : List Byte
  deriving DecidableEq, Repr

/-- MAIN with no operation in progress. -/
def MainSeq.idle : MainSeq := { op := none, phase := .idle, byte := 0, toSend := [] }

/-- The reference client's state (R49). -/
structure Client where
  lineBuf : Vector Byte 8
  cmdBuf : Vector Byte 8
  widx : Nat
  cmdReady : Bool
  sensitivity : Word
  deriving DecidableEq, Repr

/-- A call to an external collaborator (R170). -/
inductive ExtCall where
  | query (key : Byte)
  | assign (key : Byte) (v : Word)
  deriving DecidableEq, Repr

/-- The inputs of the run (R50, logs 1 and 2). -/
structure Inputs where
  /-- Command words waiting at the command port (R80(a)), the next one first. -/
  cmds : List Word
  /-- `wire_in`: the bytes still to arrive (R45), the next one first. -/
  wireIn : List Byte
  /-- The agents that step next (R10), the next one first. -/
  schedule : List Agent
  /-- The model's own: how many free values have been taken. -/
  draws : Nat
  deriving DecidableEq, Repr

/-- The observations of the run, oldest first: response words (R80(b)), `wire_out` (R45) and, the model's own, the calls made to
the external collaborators (R170, log 11). -/
structure Outputs where
  rsp : List RspWord
  wireOut : List Byte
  extCalls : List ExtCall
  deriving DecidableEq, Repr

structure State where
  /-- The parameters of the run (R6); no step writes them. -/
  cfg : Config
  /-- The ring instance RX (R20). -/
  rx : Ring
  /-- The ring instance TX (R20). -/
  tx : Ring
  xport : Transport
  faults : FaultRecord
  line : Line
  ctx : Contexts
  main : MainSeq
  client : Client
  inputs : Inputs
  outputs : Outputs
  deriving DecidableEq, Repr

/-- Why the machine stops. Both are raised only in states that no run reaches (log 17). The spec's own faults, `F_CONFIG` to
`F_HALTED`, are not here: they are next states that carry a response (R183, log 4). -/
inductive Fault where
  /-- Raised by a slot access whose cursor names no slot of the ring, an index outside `0..N-1` (R63). Safe: the model stops. -/
  | noSuchSlot
  /-- Raised by an operation in progress whose phase is none of its own micro-steps (R46). Safe: the model stops. -/
  | strayPhase
  deriving DecidableEq, Repr

/-- Why an instruction has no meaning. -/
inductive Refusal where
  /-- Raised by an arm of `exec` whose instruction has no meaning yet; no arm is left so. Safe: the model stops. -/
  | notModelled (mnemonic : String)
  deriving DecidableEq, Repr

/-- A ring after power-on reset: not initialized (R25), nothing written (R21), the rest at the value log 5 names. -/
def Ring.reset : Ring := { storage := [], inp := 0, out := 0, count := 0, initialized := false }

/-- The state after power-on reset (R51, R210) of the machine with parameters `c`. The entries R51 calls unspecified stand at
the values of logs 5, 6 and 7. -/
def State.resetWith (c : Config) : State :=
  { cfg := c
    rx := Ring.reset
    tx := Ring.reset
    xport := { rxStatus := .idleEmpty, txStatus := .idleEmpty, rxStatusSet := false, txStatusSet := false,
               initialized := false, baud := 0, rxIe := false, txIe := false }
    faults := { halted := false, seen := false, code := 0 }
    line := { on := false, rxData := 0, rxPending := false, txData := 0, txReady := true }
    ctx := { gie := false, inIrq := false, critSaved := [] }
    main := MainSeq.idle
    client := { lineBuf := Vector.replicate 8 0, cmdBuf := Vector.replicate 8 0, widx := 0, cmdReady := false, sensitivity := 0 }
    inputs := { cmds := [], wireIn := [], schedule := [], draws := 0 }
    outputs := { rsp := [], wireOut := [], extCalls := [] } }

/-- The state after power-on reset of the machine with the parameters of log 12. -/
def State.reset : State := State.resetWith Config.default

end Sys2Proof.Machine
end

