-- ==== Sys2Proof/Machine/Operands.lean ====
section
/-! DEFINITION. The operand forms: the ring an operand selects and its capacity (R81, R20), cursor advance (R63), the decimal
spelling of a number (R126), the content of the command buffer and the integer in it (R175, R168), and the texts a query sends
(R169, R170). -/

namespace Sys2Proof.Machine

/-- The ring instance an operand selects (R81). -/
def State.ring (s : State) : RingId → Ring
  | .rx => s.rx
  | .tx => s.tx

/-- The state with one ring instance replaced. -/
def State.setRing (s : State) (r : RingId) (v : Ring) : State :=
  match r with
  | .rx => { s with rx := v }
  | .tx => { s with tx := v }

/-- `N`, the capacity of an instance (R20). -/
def State.cap (s : State) : RingId → Nat
  | .rx => s.cfg.nRx.n
  | .tx => s.cfg.nTx.n

/-- `wrap_N(c)` (R8, R63). -/
def wrap (n c : Nat) : Nat := if c + 1 = n then 0 else c + 1

/-- The byte a slot holds, if it was ever written (R21). -/
def Mem.read : Mem → Nat → Option Byte
  | [], _ => none
  | (k, b) :: m, i => if k = i then some b else Mem.read m i

/-- The storage with slot `i` written; every other slot keeps what it held (R60). -/
def Mem.write : Mem → Nat → Byte → Mem
  | [], i, b => [(i, b)]
  | (k, c) :: m, i, b =>
    if i < k then (i, b) :: (k, c) :: m
    else if i = k then (i, b) :: m
    else (k, c) :: Mem.write m i b

/-- What slot `i` of ring `r` holds. -/
def State.slot (s : State) (r : RingId) (i : Nat) : Option Byte := Mem.read (s.ring r).storage i

/-- A decimal digit in ASCII. -/
def digitByte (d : Nat) : Byte := BitVec.ofNat 8 (0x30 + d)

/-- The digits of `n`, most significant first, with no leading zero; `fuel` bounds their number. -/
def decDigits : Nat → Nat → List Byte
  | 0, _ => []
  | fuel + 1, n => if n < 10 then [digitByte n] else decDigits fuel (n / 10) ++ [digitByte (n % 10)]

/-- `dec(v)`: the shortest decimal spelling of a signed 16-bit number (R126). -/
def dec (v : Word) : List Byte :=
  if v.toInt < 0 then 0x2D :: decDigits 5 v.toInt.natAbs else decDigits 5 v.toInt.natAbs

/-- The command content: the bytes of `cmd_buf` before the first 0x00 (R175). -/
def content (buf : Vector Byte 8) : List Byte := buf.toList.takeWhile (· ≠ 0)

/-- What follows the first `=`, or nothing if there is no `=` (R168). -/
def afterEquals : List Byte → Option (List Byte)
  | [] => none
  | b :: bs => if b = 0x3D then some bs else afterEquals bs

/-- Is the byte one of `'0'..'9'`. -/
def isDigit (b : Byte) : Bool := 0x30 ≤ b.toNat && b.toNat ≤ 0x39

/-- The value of a sequence of digits, most significant first, `acc` being the value so far. -/
def digitsValue : Nat → List Byte → Nat
  | acc, [] => acc
  | acc, b :: bs => digitsValue (10 * acc + (b.toNat - 0x30)) bs

/-- The value of `[0-9]+`, and nothing for any other text. -/
def unsignedText (t : List Byte) : Option Nat :=
  if t ≠ [] ∧ t.all isDigit then some (digitsValue 0 t) else none

/-- The value of `[+-]?[0-9]+`, and nothing for any other text (R168). -/
def signedText : List Byte → Option Int
  | [] => none
  | b :: bs =>
    if b = 0x2B then (unsignedText bs).map Int.ofNat
    else if b = 0x2D then (unsignedText bs).map (fun n => -(Int.ofNat n))
    else (unsignedText (b :: bs)).map Int.ofNat

/-- `parse_int` of a command content (R168): the value, 0 where the payload is absent or malformed, and `none` where the value lies
outside -32768..32767 and the spec defines no result (U7). -/
def parseInt (t : List Byte) : Option Word :=
  match afterEquals t with
  | none => some 0
  | some p =>
    match signedText p with
    | none => some 0
    | some v => if -32768 ≤ v ∧ v ≤ 32767 then some (BitVec.ofInt 16 v) else none

/-- Key `S`, `T`, `D`, `H` (R169, R170). -/
def keyS : Byte := 0x53
def keyT : Byte := 0x54
def keyD : Byte := 0x44
def keyH : Byte := 0x48

/-- Marker `?` and marker `=` (R167). -/
def markQuery : Byte := 0x3F
def markAssign : Byte := 0x3D

/-- `sensitivity = `, 14 bytes (R169). -/
def sensitivityHead : List Byte :=
  [0x73, 0x65, 0x6E, 0x73, 0x69, 0x74, 0x69, 0x76, 0x69, 0x74, 0x79, 0x20, 0x3D, 0x20]

/-- The response to `S?` (R169). -/
def sensitivityText (v : Word) : List Byte := sensitivityHead ++ dec v ++ [0x0A]

/-- A collaborator's number in ASCII (R170). -/
def numBytes (t : NumText) : List Byte :=
  (if t.neg then [0x2D] else []) ++ digitByte t.lead.val :: t.rest.map (fun d => digitByte d.val)

/-- `<int>.<int> C` and a line end, per probe (R170). -/
def probeText : List (NumText × NumText) → List Byte
  | [] => []
  | (w, f) :: ps => numBytes w ++ [0x2E] ++ numBytes f ++ [0x20, 0x43, 0x0A] ++ probeText ps

/-- `<day>.<month>.<year> <h>:<m>:<s>` and a line end (R170). -/
def clockText (c : ClockText) : List Byte :=
  numBytes c.day ++ [0x2E] ++ numBytes c.month ++ [0x2E] ++ numBytes c.year ++ [0x20] ++
    numBytes c.hour ++ [0x3A] ++ numBytes c.minute ++ [0x3A] ++ numBytes c.second ++ [0x0A]

/-- `Humidity: `. -/
def humidityHead : List Byte := [0x48, 0x75, 0x6D, 0x69, 0x64, 0x69, 0x74, 0x79, 0x3A, 0x20]

/-- `Temperature: `. -/
def temperatureHead : List Byte := [0x54, 0x65, 0x6D, 0x70, 0x65, 0x72, 0x61, 0x74, 0x75, 0x72, 0x65, 0x3A, 0x20]

/-- `Humidity: <n>`, a line end, `Temperature: <n>` and a line end (R170). -/
def humidityText (p : NumText × NumText) : List Byte :=
  humidityHead ++ numBytes p.1 ++ [0x0A] ++ temperatureHead ++ numBytes p.2 ++ [0x0A]

/-- `ext_query(key)`, the free response of a collaborator, and nothing for a key that has none (R170, U12; log 11). -/
def extQuery (key : Byte) (draw : Nat) : Option (List Byte) :=
  if key = keyT then some (probeText (Config.probeReadings draw))
  else if key = keyD then some (clockText (Config.clockReading draw))
  else if key = keyH then some (humidityText (Config.humidityReading draw))
  else none

end Sys2Proof.Machine
end

