-- ==== Sys2Proof/Machine/Flags.lean ====
section
/-! DEFINITION. The flag computations: status codes and status writes (R87, R33), result codes and the response word (R181, R82),
the fault record (R42, R183), the tests derived from `count` (R107, R108), the interrupt request lines (R80(f), R141, R143) with
their masking and order (R140, R189), and the status ports (R80(e), R52). -/

namespace Sys2Proof.Machine

/-- The numeric code of a status value (R87). -/
def Status.code : Status → BitVec 2
  | .idleEmpty => 0
  | .dataPending => 1
  | .transmitting => 2
  | .bufferFull => 3

/-- The result codes (R181); 10 to 15 are reserved and never produced. -/
inductive ResultCode where
  | ok
  | config
  | insertFull
  | removeEmpty
  | uninit
  | illegal
  | ownership
  | reinit
  | lineTooLong
  | halted
  deriving DecidableEq, Repr

/-- The number of a result code (R181). -/
def ResultCode.num : ResultCode → BitVec 4
  | .ok => 0
  | .config => 1
  | .insertFull => 2
  | .removeEmpty => 3
  | .uninit => 4
  | .illegal => 5
  | .ownership => 6
  | .reinit => 7
  | .lineTooLong => 8
  | .halted => 9

/-- The response word: `code` in bits 19:16, `value` in bits 15:0 (R82). -/
def rspWord (c : ResultCode) (value : Word) : RspWord := c.num ++ value

/-- `value = zext_16(byte)` (R82). -/
def byteValue (b : Byte) : Word := b.zeroExtend 16

/-- A one-bit answer in `value[0]` (R82). -/
def boolValue (b : Bool) : Word := if b then 1 else 0

/-- `is_empty`: `count = 0` (R107). -/
def isEmptyCount (n : Nat) : Bool := n == 0

/-- `is_full`: `count = N` (R108). -/
def isFullCount (cap n : Nat) : Bool := n == cap

/-- The effect of a fault on the record: `fault_seen <- 1`, `fault_code` keeps the first code, and `F_CONFIG` sets `halted`
(R183). -/
def FaultRecord.record (f : FaultRecord) (c : ResultCode) : FaultRecord :=
  { halted := if c = .config then true else f.halted
    seen := true
    code := if f.seen then f.code else c.num }

/-- A write of `rx_status` (R34, R36). -/
def State.setRxStatus (s : State) (v : Status) : State :=
  { s with xport.rxStatus := v, xport.rxStatusSet := true }

/-- A write of `tx_status` (R35, R36). -/
def State.setTxStatus (s : State) (v : Status) : State :=
  { s with xport.txStatus := v, xport.txStatusSet := true }

/-- The receive status port, read `k` (R80(e)): the register's code once a write has defined it, before that a free draw, each read
its own (R52, log 8). -/
def State.rxStatusPort (s : State) (k : Nat) : BitVec 2 :=
  if s.xport.rxStatusSet then s.xport.rxStatus.code else Config.freeRxStatus k

/-- The transmit status port, read `k` (R80(e), R52, log 8). -/
def State.txStatusPort (s : State) (k : Nat) : BitVec 2 :=
  if s.xport.txStatusSet then s.xport.txStatus.code else Config.freeTxStatus k

/-- The interrupt request lines: `irq_rx = rx_ie ∧ rx_pending`, `irq_tx = tx_ie ∧ tx_ready` (R80(f), R141, R143). -/
def State.irqLine (s : State) : EventVector → Bool
  | .rx => s.xport.rxIe && s.line.rxPending
  | .tx => s.xport.txIe && s.line.txReady

/-- Does `IRQ_ORDER` make event `v` wait while the other one is requested too (R189, log 20). -/
def State.mustWait (s : State) : EventVector → Bool
  | .rx => s.cfg.irqOrder == .txFirst && s.irqLine .tx
  | .tx => s.cfg.irqOrder == .rxFirst && s.irqLine .rx

/-- Can the handler of `v` start: no handler runs, `gie = 1`, its request line is high (R140), and no event goes before it (R189). -/
def State.canStart (s : State) (v : EventVector) : Bool :=
  !s.ctx.inIrq && s.ctx.gie && s.irqLine v && !s.mustWait v

end Sys2Proof.Machine
end

