-- ==== Sys2Proof/Machine/Ops.lean ====
section
/-! DEFINITION. The shared operations: MAIN's sequencing (R46), responses and faults (R82, R183), the critical section (R148),
interrupt entry and return (R191, R192), the micro-steps of insert, remove and init on a ring (R101, R102, R104, R110), the checks
before a command runs (R86, R111) and what executing a command is (R46, R100, R120). -/

namespace Sys2Proof.Machine

/-- What a meaning answers. -/
abbrev Result := Host.Outcome State Fault Refusal

/-- `m_phase` moves to `ph` (R46). -/
def goto (ph : Phase) (s : State) : State := { s with main.phase := ph }

/-- The end of an operation: the response word is produced and `m_op <- NONE` (R46, R80(b)). -/
def finish (c : ResultCode) (value : Word) (s : State) : State :=
  { s with main := MainSeq.idle, outputs.rsp := s.outputs.rsp ++ [rspWord c value] }

/-- `return v` (R8): the operation completes with code `OK`. -/
def ret (value : Word) (s : State) : State := finish .ok value s

/-- TAKING A FAULT, `raise <Fault>` (R8, R183, R188, R193): the code is recorded, the response carries it with value 0, MAIN becomes
idle. -/
def raise (c : ResultCode) (s : State) : State := finish c 0 { s with faults := s.faults.record c }

/-- The enter of a critical section: `crit_saved <- gie; gie <- 0` (R148). -/
def enterCrit (s : State) : State :=
  { s with ctx.critSaved := s.ctx.gie :: s.ctx.critSaved, ctx.gie := false }

/-- The exit of a critical section: `gie <- crit_saved` of the innermost one (R148). -/
def exitCrit (s : State) : State :=
  match s.ctx.critSaved with
  | g :: rest => { s with ctx.critSaved := rest, ctx.gie := g }
  | [] => s

/-- `atomic { body }` (R148), one step of MAIN (log 13). -/
def atomically (body : State → State) (s : State) : State := exitCrit (body (enterCrit s))

/-- `atomic { n <- r.count }` (R69): the value read, and the state after the critical section. -/
def atomicCount (r : RingId) (s : State) : Nat × State :=
  ((( enterCrit s).ring r).count.toNat, exitCrit (enterCrit s))

/-- TAKING AN INTERRUPT (R191): `in_irq <- 1`, `gie <- 0`; nothing is saved. -/
def irqEntry (s : State) : State := { s with ctx.inIrq := true, ctx.gie := false }

/-- The return from a handler (R192): `gie <- 1`, `in_irq <- 0`. -/
def irqReturn (s : State) : State := { s with ctx.gie := true, ctx.inIrq := false }

/-- `r.storage[r.in] <- b` (R102 I1). A cursor that names no slot is a fault of the model (log 17). -/
def slotWrite (r : RingId) (b : Byte) (s : State) : Except Fault State :=
  if (s.ring r).inp < s.cap r then
    .ok (s.setRing r { s.ring r with storage := Mem.write (s.ring r).storage (s.ring r).inp b })
  else .error .noSuchSlot

/-- `r.in <- wrap_N(r.in)` (R102 I2). -/
def advanceIn (r : RingId) (s : State) : State :=
  s.setRing r { s.ring r with inp := wrap (s.cap r) (s.ring r).inp }

/-- `r.count <- r.count + 1` (R102 I3). -/
def countUp (r : RingId) (s : State) : State :=
  s.setRing r { s.ring r with count := (s.ring r).count + 1 }

/-- `b <- r.storage[r.out]` (R104 X1): the byte, and the state after the read. A slot that was never written gives a free byte
(log 7); a cursor that names no slot is a fault of the model (log 17). -/
def slotRead (r : RingId) (s : State) : Except Fault (Byte × State) :=
  if (s.ring r).out < s.cap r then
    match s.slot r (s.ring r).out with
    | some b => .ok (b, s)
    | none => .ok (Config.freeByte s.inputs.draws, { s with inputs.draws := s.inputs.draws + 1 })
  else .error .noSuchSlot

/-- `r.out <- wrap_N(r.out)` (R104 X2). -/
def advanceOut (r : RingId) (s : State) : State :=
  s.setRing r { s.ring r with out := wrap (s.cap r) (s.ring r).out }

/-- `r.count <- r.count - 1` (R104 X3). -/
def countDown (r : RingId) (s : State) : State :=
  s.setRing r { s.ring r with count := (s.ring r).count - 1 }

/-- Micro-step I1 of MAIN (R110), then I2. -/
def stepI1 (r : RingId) (b : Byte) (s : State) : Result :=
  match slotWrite r b s with
  | .ok t => .next (goto .i2 t)
  | .error f => .fault f

/-- Micro-step I2 of MAIN (R110), then I3. -/
def stepI2 (r : RingId) (s : State) : Result := .next (goto .i3 (advanceIn r s))

/-- Micro-step I3 of MAIN (R110), `atomic { r.count <- r.count + 1 }`, then `k`. -/
def stepI3 (r : RingId) (k : State → State) (s : State) : Result := .next (k (atomically (countUp r) s))

/-- Micro-step X1 of MAIN (R110): the byte goes to the local variable `b`; then X2. -/
def stepX1 (r : RingId) (s : State) : Result :=
  match slotRead r s with
  | .ok (b, t) => .next { t with main.byte := b, main.phase := .x2 }
  | .error f => .fault f

/-- Micro-step X2 of MAIN (R110), then X3. -/
def stepX2 (r : RingId) (s : State) : Result := .next (goto .x3 (advanceOut r s))

/-- Micro-step X3 of MAIN (R110), `atomic { r.count <- r.count - 1 }`, then `k`. -/
def stepX3 (r : RingId) (k : State → State) (s : State) : Result := .next (k (atomically (countDown r) s))

/-- `r.in <- 0` (R101). -/
def initInStep (r : RingId) (s : State) : State := s.setRing r { s.ring r with inp := 0 }

/-- `r.out <- 0` (R101). -/
def initOutStep (r : RingId) (s : State) : State := s.setRing r { s.ring r with out := 0 }

/-- `atomic { r.count <- 0 }` (R101). -/
def initCountStep (r : RingId) (s : State) : State :=
  atomically (fun t => t.setRing r { t.ring r with count := 0 }) s

/-- `r.initialized <- 1` (R101). -/
def initMarkStep (r : RingId) (s : State) : State := s.setRing r { s.ring r with initialized := true }

/-- Micro-step W1 of MAIN (R124): one atomic read of `TX.count`; while the ring is full the phase stays. -/
def stepW1 (s : State) : Result :=
  let c := atomicCount .tx s
  if c.1 = s.cap .tx then .next c.2 else .next (goto .i1 c.2)

/-- Which micro-steps an operation has (R110, R131, R162). -/
def Instr.hasPhase (i : Instr) (ph : Phase) : Bool :=
  match i with
  | .rbInit r => ph == .initIn r || ph == .initOut r || ph == .initCount r || ph == .initMark r
  | .rbInsert _ _ => ph == .i0 || ph == .i1 || ph == .i2 || ph == .i3
  | .rbRemove _ => ph == .x0 || ph == .x1 || ph == .x2 || ph == .x3
  | .rbCount _ => ph == .single
  | .rbIsempty _ => ph == .single
  | .rbIsfull _ => ph == .single
  | .rbFlush _ => ph == .f1 || ph == .x1 || ph == .x2 || ph == .x3
  | .sysGie _ => ph == .single
  | .stInit _ =>
    ph == .cfgBaud || ph == .cfgLineOn || ph == .cfgRxPending || ph == .cfgTxReady ||
    ph == .initIn .rx || ph == .initOut .rx || ph == .initCount .rx || ph == .initMark .rx ||
    ph == .initIn .tx || ph == .initOut .tx || ph == .initCount .tx || ph == .initMark .tx ||
    ph == .cfgRxStatus || ph == .cfgTxStatus || ph == .cfgTxIe || ph == .cfgRxIe || ph == .cfgMark
  | .stWriteByte _ => ph == .w1 || ph == .i1 || ph == .i2 || ph == .i3 || ph == .w2
  | .stReadByte => ph == .g1 || ph == .g2 || ph == .x1 || ph == .x2 || ph == .x3
  | .stAvail => ph == .single
  | .stWaitTc => ph == .t1
  | .reservedD _ => false
  | .laPoll =>
    ph == .p1 || ph == .x1 || ph == .x2 || ph == .x3 || ph == .handoff || ph == .handoffIdx || ph == .handoffReady ||
    ph == .store || ph == .storeIdx
  | .laDispatch =>
    ph == .route || ph == .assign || ph == .done || ph == .w1 || ph == .i1 || ph == .i2 || ph == .i3 || ph == .w2
  | .evRx => false
  | .evTx => false

/-- Check (2) of R86 for a decoded word: what R85 calls illegal though the word selects a row, (a) and (f), and for a term that no
word stands for, (e). -/
def illegalHere (i : Instr) (s : State) : Bool :=
  match i with
  | .reservedD _ => true
  | .laPoll => !s.cfg.hasClient
  | .laDispatch => !s.cfg.hasClient
  | i => !i.wf

/-- Check (3) of R86, initialization (R185, R123). -/
def initFault (i : Instr) (s : State) : Option ResultCode :=
  let ringOp (r : RingId) : Option ResultCode := if (s.ring r).initialized then none else some .uninit
  let transportOp : Option ResultCode := if s.xport.initialized then none else some .uninit
  match i with
  | .rbInit _ => none
  | .rbInsert r _ => ringOp r
  | .rbRemove r => ringOp r
  | .rbCount r => ringOp r
  | .rbIsempty r => ringOp r
  | .rbIsfull r => ringOp r
  | .rbFlush r => ringOp r
  | .sysGie _ => none
  | .stInit _ => if s.xport.initialized then some .reinit else none
  | .stWriteByte _ => transportOp
  | .stReadByte => transportOp
  | .stAvail => transportOp
  | .stWaitTc => transportOp
  | .reservedD _ => none
  | .laPoll => transportOp
  | .laDispatch => transportOp
  | .evRx => none
  | .evTx => none

/-- Check (4) of R86: would the ring command make MAIN a second writer of state that IRQ can write (R111). -/
def breaksOwnership (i : Instr) (s : State) : Bool :=
  match i with
  | .rbInit .rx => s.xport.rxIe
  | .rbInsert .rx _ => s.xport.rxIe
  | .rbInit .tx => s.xport.txIe
  | .rbRemove .tx => s.xport.txIe
  | .rbFlush .tx => s.xport.txIe
  | _ => false

/-- Check (5) of R86 as far as the port makes it before the first micro-step: the baud-rate selector of `ST_INIT` (R121, R122;
log 15). -/
def badConfig (i : Instr) (s : State) : Bool :=
  match i with
  | .stInit sel => !(s.cfg.baudValid.contains sel)
  | _ => false

/-- The checks before a command runs, the first that fails deciding the response (R86). -/
def precheck (i : Instr) (s : State) : Option ResultCode :=
  if s.faults.halted then some .halted
  else if illegalHere i s then some .illegal
  else match initFault i s with
    | some c => some c
    | none =>
      if breaksOwnership i s then some .ownership
      else if badConfig i s then some .config
      else none

/-- Accepting a command: `m_op` and its first phase are set (R46). -/
def accept (i : Instr) (first : Phase) (s : State) : State :=
  { s with main := { op := some i, phase := first, byte := 0, toSend := [] } }

/-- MAIN takes one step of the command `i` whose first phase is `first` (R46): idle, it makes the checks and accepts the command or
answers the fault (log 3); with `i` in progress, it takes the micro-step the phase names; with another operation in progress, the
port does not accept and nothing changes (D36, log 16). -/
def runCommand (i : Instr) (first : Phase) (micro : State → Result) (s : State) : Result :=
  match s.main.op with
  | none =>
    match precheck i s with
    | some c => .next (raise c s)
    | none => .next (accept i first s)
  | some j =>
    if j = i then (if Instr.hasPhase i s.main.phase then micro s else .fault .strayPhase)
    else .next s

end Sys2Proof.Machine
end

