-- ==== Sys2Proof/Machine/ClientOps.lean ====
section
/-! DEFINITION. The reference client (43_line_assembler.md): the assembler transition and the dispatch step, each as MAIN's steps
of it. The lines of pseudocode that carry no micro-step name are one step each (log 14). -/

namespace Sys2Proof.Machine

/-- The copy-and-clear handoff, one critical section (R165). -/
def handoff (s : State) : State :=
  atomically (fun t => { t with client.cmdBuf := t.client.lineBuf, client.lineBuf := Vector.replicate 8 0 }) s

/-- `line_buf[widx] <- b` (R163), with the bound of R164. -/
def storeByte (s : State) : State :=
  if lineCap - 1 ≤ s.client.widx then raise .lineTooLong s
  else goto .storeIdx { s with client.lineBuf := s.client.lineBuf.setIfInBounds s.client.widx s.main.byte }

/-- The micro-steps of `LA_POLL`: P1; X1, X2, X3; then the handoff and the two assignments after it, or the store and the index
(R162, R163). -/
def microLaPoll (s : State) : Result :=
  match s.main.phase with
  | .p1 =>
    let c := atomicCount .rx s
    .next (if isEmptyCount c.1 then ret 0 c.2 else goto .x1 c.2)
  | .x1 => stepX1 .rx s
  | .x2 => stepX2 .rx s
  | .x3 => stepX3 .rx (goto (if s.main.byte = lineTerm then .handoff else .store)) s
  | .handoff => .next (goto .handoffIdx (handoff s))
  | .handoffIdx => .next (goto .handoffReady { s with client.widx := 0 })
  | .handoffReady => .next (goto .p1 { s with client.cmdReady := true })
  | .store => .next (storeByte s)
  | .storeIdx => .next (goto .p1 { s with client.widx := s.client.widx + 1 })
  | _ => .fault .strayPhase

/-- `LA_POLL` (R162 to R166). -/
def execLaPoll (s : State) : Result := runCommand .laPoll .p1 microLaPoll s

/-- Start sending a response through `write_byte`, or end the dispatch if there is nothing to send (R169, R170). -/
def sendBytes (bs : List Byte) (s : State) : State :=
  { s with main.toSend := bs, main.phase := if bs = [] then .done else .w1 }

/-- `query(key)` (R169 to R171). -/
def query (key : Byte) (s : State) : State :=
  if key = keyS then sendBytes (sensitivityText s.client.sensitivity) s
  else
    match extQuery key s.inputs.draws with
    | some bs =>
      sendBytes bs { s with inputs.draws := s.inputs.draws + 1, outputs.extCalls := s.outputs.extCalls ++ [.query key] }
    | none => goto .done s

/-- `parse_int(cmd_buf)`: the value, a free one where the spec defines none, and the state after taking it (R168, U7; log 10). -/
def parsedValue (s : State) : Word × State :=
  match parseInt (content s.client.cmdBuf) with
  | some v => (v, s)
  | none => (Config.freeNum s.inputs.draws, { s with inputs.draws := s.inputs.draws + 1 })

/-- `assign(key, v)` (R169 to R171): key `S` stores, an external key calls its collaborator, which touches no state of the spec, and
an unknown key does nothing. -/
def assignKey (key : Byte) (v : Word) (s : State) : State :=
  if key = keyS then { s with client.sensitivity := v }
  else if key = keyT ∨ key = keyD ∨ key = keyH then
    { s with outputs.extCalls := s.outputs.extCalls ++ [.assign key v] }
  else s

/-- The first micro-step of `LA_DISPATCH`: the test of `cmd_ready`, the head byte and the marker (R167, R171). -/
def routeCommand (s : State) : State :=
  if !s.client.cmdReady then ret 0 s
  else if s.client.cmdBuf[1] = markQuery then query s.client.cmdBuf[0] s
  else if s.client.cmdBuf[1] = markAssign then goto .assign s
  else goto .done s

/-- The end of one `write_byte` of a response: W2 arms (R124), then the next byte or the end of the dispatch. -/
def sentByte (s : State) : State := sendBytes s.main.toSend.tail { s with xport.txIe := true }

/-- The micro-steps of `LA_DISPATCH`: the tests; for a query the micro-steps of `write_byte` for each byte; for an assignment the
assignment; then `cmd_ready <- 0` (R167). -/
def microLaDispatch (s : State) : Result :=
  match s.main.phase with
  | .route => .next (routeCommand s)
  | .w1 => stepW1 s
  | .i1 =>
    match s.main.toSend with
    | b :: _ => stepI1 .tx b s
    | [] => .fault .strayPhase
  | .i2 => stepI2 .tx s
  | .i3 => stepI3 .tx (goto .w2) s
  | .w2 => .next (sentByte s)
  | .assign =>
    let p := parsedValue s
    .next (goto .done (assignKey s.client.cmdBuf[0] p.1 p.2))
  | .done => .next (ret 0 { s with client.cmdReady := false })
  | _ => .fault .strayPhase

/-- `LA_DISPATCH` (R167 to R171). -/
def execLaDispatch (s : State) : Result := runCommand .laDispatch .route microLaDispatch s

end Sys2Proof.Machine
end

