-- ==== Sys2Proof/Machine/Events.lean ====
section
/-! DEFINITION. The two interrupt-context behaviours (R140 to R144) and the steps of the line device (R145 to R147). -/

namespace Sys2Proof.Machine

/-- A handler, one indivisible step (R140): if it can start, entry (R191), its body, return (R192); otherwise no such step exists
and nothing changes (log 1). -/
def runHandler (v : EventVector) (body : State → Except Fault State) (s : State) : Result :=
  if s.canStart v then
    match body (irqEntry s) with
    | .ok t => .next (irqReturn t)
    | .error f => .fault f
  else .next s

/-- The single read of `rx_data`, whose side effect clears `rx_pending` (R65, R142). -/
def readRxData (s : State) : Byte × State := (s.line.rxData, { s with line.rxPending := false })

/-- A write of `tx_data`, whose side effect clears `tx_ready` (R65, R144). -/
def writeTxData (b : Byte) (s : State) : State := { s with line.txData := b, line.txReady := false }

/-- The body of the receive event (R142). -/
def evRxBody (s : State) : Except Fault State :=
  let d := readRxData s
  if isFullCount (d.2.cap .rx) (d.2.ring .rx).count.toNat then .ok (d.2.setRxStatus .bufferFull)
  else
    match slotWrite .rx d.1 d.2 with
    | .ok t => .ok ((countUp .rx (advanceIn .rx t)).setRxStatus .dataPending)
    | .error f => .error f

/-- `EV_RX`, the receive event (R141, R142). -/
def execEvRx (s : State) : Result := runHandler .rx evRxBody s

/-- The body of the transmit-ready event (R144). -/
def evTxBody (s : State) : Except Fault State :=
  if isEmptyCount (s.ring .tx).count.toNat then
    .ok (State.setTxStatus { s with xport.txIe := false } .idleEmpty)
  else
    match slotRead .tx s with
    | .ok (b, t) => .ok ((writeTxData b (countDown .tx (advanceOut .tx t))).setTxStatus .transmitting)
    | .error f => .error f

/-- `EV_TX`, the transmit-ready event (R143, R144). -/
def execEvTx (s : State) : Result := runHandler .tx evTxBody s

/-- `ARRIVE b`, the step of LINE_RX (R145, R146): with the line off the byte is consumed without effect; with no byte pending it is
delivered; with one pending, which of the two is kept is a free choice (log 9). With no byte to come nothing changes (log 1). -/
def arrive (s : State) : State :=
  match s.inputs.wireIn with
  | [] => s
  | b :: rest =>
    if !s.line.on then { s with inputs.wireIn := rest }
    else if !s.line.rxPending then { s with inputs.wireIn := rest, line.rxData := b, line.rxPending := true }
    else
      { s with
        inputs.wireIn := rest
        inputs.draws := s.inputs.draws + 1
        line.rxData := if Config.freeOverrun s.inputs.draws then b else s.line.rxData }

/-- `TAKE`, the step of LINE_TX (R147). Where it is not enabled nothing changes (log 1). -/
def take (s : State) : State :=
  if s.line.on && !s.line.txReady then
    { s with outputs.wireOut := s.outputs.wireOut ++ [s.line.txData], line.txReady := true }
  else s

end Sys2Proof.Machine
end

