-- ==== Sys2Proof/Machine/RingBuffer.lean ====
section
/-! DEFINITION. The seven ring buffer operations (40_ring_buffer.md), each as MAIN's steps of it (R110). -/

namespace Sys2Proof.Machine

/-- The micro-steps of `RB_INIT r` (R101). -/
def microRbInit (r : RingId) (s : State) : Result :=
  match s.main.phase with
  | .initIn _ => .next (goto (.initOut r) (initInStep r s))
  | .initOut _ => .next (goto (.initCount r) (initOutStep r s))
  | .initCount _ => .next (goto (.initMark r) (initCountStep r s))
  | .initMark _ => .next (ret 0 (initMarkStep r s))
  | _ => .fault .strayPhase

/-- `RB_INIT r` (R101). -/
def execRbInit (r : RingId) (s : State) : Result := runCommand (.rbInit r) (.initIn r) (microRbInit r) s

/-- The micro-steps of `RB_INSERT r, b`: the precondition test I0 (R103), then I1, I2, I3 (R102). -/
def microRbInsert (r : RingId) (b : Byte) (s : State) : Result :=
  match s.main.phase with
  | .i0 =>
    let c := atomicCount r s
    .next (if isFullCount (s.cap r) c.1 then raise .insertFull c.2 else goto .i1 c.2)
  | .i1 => stepI1 r b s
  | .i2 => stepI2 r s
  | .i3 => stepI3 r (ret 0) s
  | _ => .fault .strayPhase

/-- `RB_INSERT r, b` (R102, R103). -/
def execRbInsert (r : RingId) (b : Byte) (s : State) : Result := runCommand (.rbInsert r b) .i0 (microRbInsert r b) s

/-- The micro-steps of `RB_REMOVE r`: the precondition test X0 (R105), then X1, X2, X3 (R104). -/
def microRbRemove (r : RingId) (s : State) : Result :=
  match s.main.phase with
  | .x0 =>
    let c := atomicCount r s
    .next (if isEmptyCount c.1 then raise .removeEmpty c.2 else goto .x1 c.2)
  | .x1 => stepX1 r s
  | .x2 => stepX2 r s
  | .x3 => stepX3 r (ret (byteValue s.main.byte)) s
  | _ => .fault .strayPhase

/-- `RB_REMOVE r` (R104, R105). -/
def execRbRemove (r : RingId) (s : State) : Result := runCommand (.rbRemove r) .x0 (microRbRemove r) s

/-- The one micro-step of `RB_COUNT r` (R106). -/
def microRbCount (r : RingId) (s : State) : Result :=
  let c := atomicCount r s
  .next (ret (BitVec.ofNat 16 c.1) c.2)

/-- `RB_COUNT r` (R106). -/
def execRbCount (r : RingId) (s : State) : Result := runCommand (.rbCount r) .single (microRbCount r) s

/-- The one micro-step of `RB_ISEMPTY r` (R107). -/
def microRbIsempty (r : RingId) (s : State) : Result :=
  let c := atomicCount r s
  .next (ret (boolValue (isEmptyCount c.1)) c.2)

/-- `RB_ISEMPTY r` (R107). -/
def execRbIsempty (r : RingId) (s : State) : Result := runCommand (.rbIsempty r) .single (microRbIsempty r) s

/-- The one micro-step of `RB_ISFULL r` (R108). -/
def microRbIsfull (r : RingId) (s : State) : Result :=
  let c := atomicCount r s
  .next (ret (boolValue (isFullCount (s.cap r) c.1)) c.2)

/-- `RB_ISFULL r` (R108). -/
def execRbIsfull (r : RingId) (s : State) : Result := runCommand (.rbIsfull r) .single (microRbIsfull r) s

/-- The micro-steps of `RB_FLUSH r`: F1, and while the ring is not empty X1, X2, X3 with the byte discarded (R109). -/
def microRbFlush (r : RingId) (s : State) : Result :=
  match s.main.phase with
  | .f1 =>
    let c := atomicCount r s
    .next (if isEmptyCount c.1 then ret 0 c.2 else goto .x1 c.2)
  | .x1 => stepX1 r s
  | .x2 => stepX2 r s
  | .x3 => stepX3 r (goto .f1) s
  | _ => .fault .strayPhase

/-- `RB_FLUSH r` (R109). -/
def execRbFlush (r : RingId) (s : State) : Result := runCommand (.rbFlush r) .f1 (microRbFlush r) s

end Sys2Proof.Machine
end

