-- ==== Sys2Proof/Machine/Transport.lean ====
section
/-! DEFINITION. The transport's main-context operations (41_transport_main.md) and the answer to the reserved opcode (R85(a)), each
as MAIN's steps of it (R131). -/

namespace Sys2Proof.Machine

/-- The one micro-step of `SYS_GIE e`: `gie <- imm8[0]` (R130). -/
def microSysGie (imm : Byte) (s : State) : Result := .next (ret 0 { s with ctx.gie := imm.getLsbD 0 })

/-- `SYS_GIE e` (R130). -/
def execSysGie (imm : Byte) (s : State) : Result := runCommand (.sysGie imm) .single (microSysGie imm) s

/-- The micro-steps of `ST_INIT sel`, one per assignment of R121 in the order written, the body of `RB_INIT` (R101) for RX and then
for TX in its place. -/
def microStInit (sel : Byte) (s : State) : Result :=
  match s.main.phase with
  | .cfgBaud => .next (goto .cfgLineOn { s with xport.baud := sel })
  | .cfgLineOn => .next (goto .cfgRxPending { s with line.on := true })
  | .cfgRxPending => .next (goto .cfgTxReady { s with line.rxPending := false })
  | .cfgTxReady => .next (goto (.initIn .rx) { s with line.txReady := true })
  | .initIn r => .next (goto (.initOut r) (initInStep r s))
  | .initOut r => .next (goto (.initCount r) (initOutStep r s))
  | .initCount r => .next (goto (.initMark r) (initCountStep r s))
  | .initMark .rx => .next (goto (.initIn .tx) (initMarkStep .rx s))
  | .initMark .tx => .next (goto .cfgRxStatus (initMarkStep .tx s))
  | .cfgRxStatus => .next (goto .cfgTxStatus (s.setRxStatus .idleEmpty))
  | .cfgTxStatus => .next (goto .cfgTxIe (s.setTxStatus .idleEmpty))
  | .cfgTxIe => .next (goto .cfgRxIe { s with xport.txIe := false })
  | .cfgRxIe => .next (goto .cfgMark { s with xport.rxIe := true })
  | .cfgMark => .next (ret 0 { s with xport.initialized := true })
  | _ => .fault .strayPhase

/-- `ST_INIT sel` (R121 to R123). -/
def execStInit (sel : Byte) (s : State) : Result := runCommand (.stInit sel) .cfgBaud (microStInit sel) s

/-- The micro-steps of `ST_WRITE_BYTE b`: W1 while the ring is full, I1, I2, I3, then W2, the arm (R124). -/
def microStWriteByte (b : Byte) (s : State) : Result :=
  match s.main.phase with
  | .w1 => stepW1 s
  | .i1 => stepI1 .tx b s
  | .i2 => stepI2 .tx s
  | .i3 => stepI3 .tx (goto .w2) s
  | .w2 => .next (ret 0 { s with xport.txIe := true })
  | _ => .fault .strayPhase

/-- `ST_WRITE_BYTE b` (R124). -/
def execStWriteByte (b : Byte) (s : State) : Result := runCommand (.stWriteByte b) .w1 (microStWriteByte b) s

/-- The micro-steps of `ST_READ_BYTE`: G1, then G2 on an empty ring, or X1, X2, X3 (R127). -/
def microStReadByte (s : State) : Result :=
  match s.main.phase with
  | .g1 =>
    let c := atomicCount .rx s
    .next (goto (if isEmptyCount c.1 then .g2 else .x1) c.2)
  | .g2 => .next (ret sentinel (s.setRxStatus .idleEmpty))
  | .x1 => stepX1 .rx s
  | .x2 => stepX2 .rx s
  | .x3 => stepX3 .rx (ret (byteValue s.main.byte)) s
  | _ => .fault .strayPhase

/-- `ST_READ_BYTE` (R127). -/
def execStReadByte (s : State) : Result := runCommand .stReadByte .g1 microStReadByte s

/-- The one micro-step of `ST_AVAIL` (R128). -/
def microStAvail (s : State) : Result :=
  let c := atomicCount .rx s
  .next (ret (BitVec.ofNat 16 c.1) c.2)

/-- `ST_AVAIL` (R128). -/
def execStAvail (s : State) : Result := runCommand .stAvail .single microStAvail s

/-- Micro-step T1 of `ST_WAIT_TC`: one read of `tx_status`; while it is TRANSMITTING the phase stays (R129). -/
def microStWaitTc (s : State) : Result :=
  if s.xport.txStatus = .transmitting then .next s else .next (ret 0 s)

/-- `ST_WAIT_TC` (R129). -/
def execStWaitTc (s : State) : Result := runCommand .stWaitTc .t1 microStWaitTc s

/-- The reserved opcode 0xD: its word is illegal whatever its other bits, so it is answered by the checks and never accepted (R85(a),
R86, R184; log 21). -/
def execReservedD (x : BitVec 12) (s : State) : Result :=
  runCommand (.reservedD x) .idle (fun _ => .fault .strayPhase) s

end Sys2Proof.Machine
end

