-- ==== Sys2Proof/Machine/Dispatch.lean ====
section
/-! DEFINITION. The meaning of each instruction, one arm per constructor. `exec` of a command is MAIN's next step of it (R46); `exec`
of an event is the whole handler (R140). -/

namespace Sys2Proof.Machine

def exec (i : Instr) (s : State) : Host.Outcome State Fault Refusal :=
  match i with
  | .rbInit r => Sys2Proof.Machine.execRbInit r s
  | .rbInsert r b => Sys2Proof.Machine.execRbInsert r b s
  | .rbRemove r => Sys2Proof.Machine.execRbRemove r s
  | .rbCount r => Sys2Proof.Machine.execRbCount r s
  | .rbIsempty r => Sys2Proof.Machine.execRbIsempty r s
  | .rbIsfull r => Sys2Proof.Machine.execRbIsfull r s
  | .rbFlush r => Sys2Proof.Machine.execRbFlush r s
  | .sysGie imm => Sys2Proof.Machine.execSysGie imm s
  | .stInit sel => Sys2Proof.Machine.execStInit sel s
  | .stWriteByte b => Sys2Proof.Machine.execStWriteByte b s
  | .stReadByte => Sys2Proof.Machine.execStReadByte s
  | .stAvail => Sys2Proof.Machine.execStAvail s
  | .stWaitTc => Sys2Proof.Machine.execStWaitTc s
  | .reservedD x => Sys2Proof.Machine.execReservedD x s
  | .laPoll => Sys2Proof.Machine.execLaPoll s
  | .laDispatch => Sys2Proof.Machine.execLaDispatch s
  | .evRx => Sys2Proof.Machine.execEvRx s
  | .evTx => Sys2Proof.Machine.execEvTx s

end Sys2Proof.Machine
end

