-- ==== Sys2Proof/Machine/Agents.lean ====
section
/-! DEFINITION. Which agent moves next and what its step is (R9, R10): MAIN (with the command port, R46, R80), IRQ, LINE_RX,
LINE_TX. -/

namespace Sys2Proof.Machine

/-- The agent that steps next, and the state in which it steps: the head of the schedule, which is consumed, or a free choice once
the schedule is exhausted (R10, R50; log 1). -/
def nextAgent (s : State) : Agent × State :=
  match s.inputs.schedule with
  | a :: rest => (a, { s with inputs.schedule := rest })
  | [] => (Config.freeAgent s.inputs.draws, { s with inputs.draws := s.inputs.draws + 1 })

/-- The answer to a command word that decodes to no row (R85 (b) to (e), R86): `F_HALTED` once halted, otherwise `F_ILLEGAL`. -/
def rejectWord (s : State) : State := raise (if s.faults.halted then .halted else .illegal) s

/-- A step of MAIN: the micro-step of the operation in progress, or, idle, the next word of the command port (R46, R80(a)). With no
word waiting it waits. It does not move while a handler runs (R67). -/
def mainStep (s : State) : Result :=
  if s.ctx.inIrq then .next s
  else
    match s.main.op with
    | some i => exec i s
    | none =>
      match s.inputs.cmds with
      | [] => .next s
      | w :: rest =>
        match decodeCommand w with
        | .ok i => exec i { s with inputs.cmds := rest }
        | .error _ => .next (rejectWord { s with inputs.cmds := rest })

/-- A step of the given agent (R9, R10). -/
def agentStep (a : Agent) (s : State) : Result :=
  match a with
  | .main => mainStep s
  | .irq .rx => exec .evRx s
  | .irq .tx => exec .evTx s
  | .lineRx => .next (arrive s)
  | .lineTx => .next (take s)

/-- One step of the machine: the next agent steps. -/
def machineStep (s : State) : Result := agentStep (nextAgent s).1 (nextAgent s).2

/-- MAIN steps next and finds the command word `w` at the command port. -/
def placeCommand (s : State) (w : Word) : State :=
  { s with
    ctx.inIrq := false
    main := MainSeq.idle
    inputs.cmds := w :: s.inputs.cmds
    inputs.schedule := .main :: s.inputs.schedule }

/-- The handler of event `v` starts next: its trigger holds (R140, R141, R143) and no order makes it wait (R189). -/
def placeEvent (s : State) (v : EventVector) : State :=
  { s with
    cfg.irqOrder := if s.cfg.irqOrder = (match v with | .rx => .txFirst | .tx => .rxFirst) then .any else s.cfg.irqOrder
    ctx.inIrq := false
    ctx.gie := true
    xport.rxIe := if v = .rx then true else s.xport.rxIe
    xport.txIe := if v = .tx then true else s.xport.txIe
    line.rxPending := if v = .rx then true else s.line.rxPending
    line.txReady := if v = .tx then true else s.line.txReady
    inputs.schedule := .irq v :: s.inputs.schedule }

/-- The state in which the next step runs the instruction whose code is `c`. -/
def placeCode (s : State) : Code → State
  | .command w => placeCommand s w
  | .vector v => placeEvent s (if v = 0 then .rx else .tx)

end Sys2Proof.Machine
end

