-- ==== Sys2Proof/Machine/Step.lean ====
section
/-! DEFINITION. One step of the machine, and the placing of an instruction where the next step finds it. -/

namespace Sys2Proof.Machine

/-- One step: the scheduled agent takes its step (R9, R10). -/
def step (s : State) : Host.Outcome State Fault Refusal := machineStep s

/-- `s` with the instruction of `nbits` bits and value `w` placed so that the very next step runs it: a command word at the command
port with MAIN scheduled, an event with its trigger raised and its handler scheduled (log 2, log 22). -/
def State.withFetchWord (s : State) (nbits w : Nat) : State :=
  match codeOfBits nbits w with
  | some c => placeCode s c
  | none => s

end Sys2Proof.Machine
end

