-- ==== Sys2Proof/Machine/Pseudo.lean ====
section
/-! DEFINITION. The pseudo-operations of the transport and their expansions into commands (R90, R125, R126): they have no opcode. -/

namespace Sys2Proof.Machine

/-- `write_string(s)` (R90(a), R125). -/
def writeString (bs : List Byte) : List Instr := bs.map .stWriteByte

/-- `write_formatted_number(v)` (R90(b), R126). -/
def writeFormattedNumber (v : Word) : List Instr := writeString (dec v)

end Sys2Proof.Machine
end

