-- ==== Sys2Proof/Safety.lean ====
section
/-! DEFINITION. The terms claims are stated in: runs of MAIN alone, the queue a ring holds (R71), the invariant of every step
(R26 to R30, R36, R42), quiescence (R229), the pacing premise (R146), and the schedules of R227. -/

namespace Sys2Proof.Machine

/-- The first micro-step of each command (R110, R131, R162); the reserved word has none. -/
def firstPhase : Instr → Phase
  | .rbInit r => .initIn r
  | .rbInsert _ _ => .i0
  | .rbRemove _ => .x0
  | .rbCount _ => .single
  | .rbIsempty _ => .single
  | .rbIsfull _ => .single
  | .rbFlush _ => .f1
  | .sysGie _ => .single
  | .stInit _ => .cfgBaud
  | .stWriteByte _ => .w1
  | .stReadByte => .g1
  | .stAvail => .single
  | .stWaitTc => .t1
  | .reservedD _ => .idle
  | .laPoll => .p1
  | .laDispatch => .route
  | .evRx => .idle
  | .evTx => .idle

/-- `n` steps of MAIN on command `i` with no step of another agent between them. -/
def mainRun (i : Instr) : Nat → State → Result
  | 0, s => .next s
  | n + 1, s =>
    match exec i s with
    | .next t => mainRun i n t
    | .fault f => .fault f
    | .refused r => .refused r

/-- The state holds MAIN at micro-step `ph` of command `i` (R46). -/
abbrev State.runs (s : State) (i : Instr) (ph : Phase) : Prop := s.main.op = some i ∧ s.main.phase = ph

/-- The stored bytes of a ring, oldest first: the slots `out`, `out + 1`, ... modulo `N`, `count` of them (R30). -/
def State.contents (s : State) (r : RingId) : List (Option Byte) :=
  (List.range (s.ring r).count.toNat).map (fun k => s.slot r (((s.ring r).out + k) % s.cap r))

/-- Canonical storage over the slots of a ring of capacity `cap`, cursors that name slots (R27) and a count in range (R26). -/
structure RingOk (cap : Nat) (r : Ring) : Prop where
  storageWf : Mem.wf r.storage
  slots : ∀ c ∈ r.storage, c.1 < cap
  inpLt : r.inp < cap
  outLt : r.out < cap
  countLe : r.count.toNat ≤ cap

/-- The ring a command inserts into (R102, R124, R169). -/
def insertsInto : Instr → Option RingId
  | .rbInsert r _ => some r
  | .stWriteByte _ => some .tx
  | .laDispatch => some .tx
  | _ => none

/-- The ring a command removes from (R104, R109, R127, R162). -/
def removesFrom : Instr → Option RingId
  | .rbRemove r => some r
  | .rbFlush r => some r
  | .stReadByte => some .rx
  | .laPoll => some .rx
  | _ => none

/-- MAIN has advanced `r.in` and not yet incremented `r.count` (R30): 1, otherwise 0. -/
def State.pendIn (s : State) (r : RingId) : Nat :=
  if s.main.op.bind insertsInto = some r ∧ s.main.phase = .i3 then 1 else 0

/-- MAIN has advanced `r.out` and not yet decremented `r.count` (R30): 1, otherwise 0. -/
def State.pendOut (s : State) (r : RingId) : Nat :=
  if s.main.op.bind removesFrom = some r ∧ s.main.phase = .x3 then 1 else 0

/-- MAIN is part-way through the body of `RB_INIT r` (R101). -/
abbrev State.midInit (s : State) (r : RingId) : Prop := s.main.phase = .initOut r ∨ s.main.phase = .initCount r

/-- Cursors and count agree, allowing for a micro-step part-way (R30), and every occupied slot has been written (R21). -/
def RingAgrees (s : State) (r : RingId) : Prop :=
  ((s.ring r).out + (s.ring r).count.toNat + s.pendIn r) % s.cap r = ((s.ring r).inp + s.pendOut r) % s.cap r ∧
  ∀ k, k + s.pendOut r < (s.ring r).count.toNat + s.pendIn r → s.slot r (((s.ring r).out + k) % s.cap r) ≠ none

/-- What MAIN's earlier tests established and the other context cannot undo (R70, R72): room while it inserts, a byte while it
removes, and the slot it has just written. -/
def ContractKept (s : State) (r : RingId) : Prop :=
  (s.main.op.bind insertsInto = some r → s.main.phase = .i1 ∨ s.main.phase = .i2 ∨ s.main.phase = .i3 →
    (s.ring r).count.toNat < s.cap r) ∧
  (s.main.op.bind insertsInto = some r → s.main.phase = .i2 → s.slot r (s.ring r).inp ≠ none) ∧
  (s.main.op.bind removesFrom = some r → s.main.phase = .x1 ∨ s.main.phase = .x2 ∨ s.main.phase = .x3 →
    0 < (s.ring r).count.toNat)

/-- The phases at which `ST_INIT` has marked the ring initialized (R121). -/
def pastInit : RingId → Phase → Bool
  | .rx, ph => ph == .initIn .tx || ph == .initOut .tx || ph == .initCount .tx || ph == .initMark .tx ||
      ph == .cfgRxStatus || ph == .cfgTxStatus || ph == .cfgTxIe || ph == .cfgRxIe || ph == .cfgMark
  | .tx, ph => ph == .cfgRxStatus || ph == .cfgTxStatus || ph == .cfgTxIe || ph == .cfgRxIe || ph == .cfgMark

/-- The sequencing state is legal (R46): idle, or at a micro-step of a command that the checks of R86 still admit; a response being
sent has a byte left; `ST_INIT` has not yet enabled what it enables last (R121). -/
def MainOk (s : State) : Prop :=
  match s.main.op with
  | none => s.main = MainSeq.idle
  | some i =>
    i.isCommand = true ∧ Instr.hasPhase i s.main.phase = true ∧ precheck i s = none ∧
    (i = .laDispatch → s.main.phase ≠ .route → s.main.phase ≠ .assign → s.main.phase ≠ .done → s.main.toSend ≠ []) ∧
    (i = .laPoll → s.main.phase = .storeIdx → s.client.widx < lineCap - 1) ∧
    (∀ sel, i = .stInit sel →
      (s.main.phase ≠ .cfgMark → s.xport.rxIe = false) ∧
      ∀ r, pastInit r s.main.phase = true → (s.ring r).initialized = true)

/-- The transport's registers are consistent: the status registers hold the values R36 names, the enables wait for initialization
(R39, R40, R121), and an initialized transport has initialized rings (R121). -/
def XportOk (s : State) : Prop :=
  s.xport.rxStatus ≠ .transmitting ∧ s.xport.txStatus ≠ .dataPending ∧ s.xport.txStatus ≠ .bufferFull ∧
  (s.xport.txIe = true → s.xport.initialized = true) ∧
  (s.xport.rxIe = true → s.xport.initialized = true ∨ ∃ sel, s.runs (.stInit sel) .cfgMark) ∧
  (s.xport.initialized = true → s.rx.initialized = true ∧ s.tx.initialized = true)

/-- The fault record is consistent (R42, R181, R183), and a halted machine is idle with both enables off (R122). -/
def FaultsOk (s : State) : Prop :=
  (s.faults.seen = false → s.faults.code = 0 ∧ s.faults.halted = false) ∧
  (s.faults.seen = true → 1 ≤ s.faults.code.toNat ∧ s.faults.code.toNat ≤ 9) ∧
  (s.faults.halted = true →
    s.main.op = none ∧ s.xport.initialized = false ∧ s.xport.rxIe = false ∧ s.xport.txIe = false)

/-- THE INVARIANT that every step keeps. -/
structure Inv (s : State) : Prop where
  ringOk : ∀ r, RingOk (s.cap r) (s.ring r)
  agrees : ∀ r, ¬ s.midInit r → RingAgrees s r
  contract : ∀ r, ContractKept s r
  /-- The cursors `RB_INIT` has already reset stand at 0 until it resets the count (R101); no handler touches them meanwhile. -/
  midInitOk : ∀ r, (s.midInit r → (s.ring r).inp = 0) ∧ (s.main.phase = .initCount r → (s.ring r).out = 0)
  mainOk : MainOk s
  xportOk : XportOk s
  faultsOk : FaultsOk s
  /-- Between steps no handler runs and no critical section is open (R47, R48). -/
  ctxOk : s.ctx.inIrq = false ∧ s.ctx.critSaved = []
  /-- A byte is pending only on a configured line (R43, R145). -/
  lineOk : s.line.rxPending = true → s.line.on = true
  /-- The write index leaves the last byte of the line buffer zero (R164, R175). -/
  clientOk : s.client.widx ≤ lineCap - 1

/-- No fault has been recorded: the premise R183 asks claims about a run to take. -/
abbrev NoFault (s : State) : Prop := s.faults.seen = false

/-- The premise `PaceRX` at a step (R146): a byte arrives only when none is pending. -/
def PaceRx (s : State) : Prop := (nextAgent s).1 = .lineRx → s.line.rxPending = false

/-- A quiescent state (R229). -/
abbrev Quiescent (s : State) : Prop :=
  s.main.op = none ∧ s.inputs.cmds = [] ∧ s.inputs.wireIn = [] ∧
  (s.xport.rxIe && s.line.rxPending && s.ctx.gie) = false ∧ (s.xport.txIe && s.line.txReady && s.ctx.gie) = false ∧
  (s.line.txReady = true ∨ s.line.on = false)

/-- Is a step of the agent enabled (R10, R140, R145, R147). MAIN waits when idle with no command. -/
def enabled (a : Agent) (s : State) : Prop :=
  match a with
  | .main => s.ctx.inIrq = false ∧ (s.main.op ≠ none ∨ s.inputs.cmds ≠ [])
  | .irq v => s.canStart v = true
  | .lineRx => s.inputs.wireIn ≠ []
  | .lineTx => s.line.on = true ∧ s.line.txReady = false

/-- An infinite run of the machine. -/
def IsRun (f : Nat → State) : Prop := ∀ n, step (f n) = .next (f (n + 1))

/-- Weak fairness of an agent on a run: a step that stays enabled is eventually taken (R227). -/
def WeaklyFair (a : Agent) (f : Nat → State) : Prop :=
  ∀ n, (∀ m, n ≤ m → enabled a (f m)) → ∃ m, n ≤ m ∧ (nextAgent (f m)).1 = a

/-! Decimal texts, in the words of R126 and R168. -/

/-- One or more of `'0'..'9'`. -/
abbrev IsDigits (ds : List Byte) : Prop := ds ≠ [] ∧ ∀ d ∈ ds, 0x30 ≤ d.toNat ∧ d.toNat ≤ 0x39

/-- An optional sign, `'+'` or `'-'` (R168). -/
abbrev IsSign (t : List Byte) : Prop := t = [] ∨ t = [0x2B] ∨ t = [0x2D]

/-- The value of a sequence of digits, most significant first. -/
def decimalValue (ds : List Byte) : Nat := ds.foldl (fun n d => 10 * n + (d.toNat - 0x30)) 0

/-! What an instruction leaves alone. -/

/-- The ring `r` is unchanged, every slot included. -/
def SameRing (r : RingId) (s t : State) : Prop := t.ring r = s.ring r ∧ ∀ i, t.slot r i = s.slot r i

/-- The inputs of the run and what leaves on the line and to the collaborators are unchanged. -/
def SameWorld (s t : State) : Prop :=
  t.inputs = s.inputs ∧ t.outputs.wireOut = s.outputs.wireOut ∧ t.outputs.extCalls = s.outputs.extCalls

/-- No fault is recorded beyond those of `s`, or the first one is (R183); `halted` is as it was. -/
def FaultsMayGrow (s t : State) : Prop :=
  t.faults.halted = s.faults.halted ∧ (t.faults = s.faults ∨ (t.faults.seen = true ∧ (s.faults.seen = true → t.faults.code = s.faults.code)))

/-- No response is produced, or one is (R80(b)). -/
def ResponsesMayGrow (s t : State) : Prop :=
  t.outputs.rsp = s.outputs.rsp ∨ ∃ w, t.outputs.rsp = s.outputs.rsp ++ [w]

end Sys2Proof.Machine
end

