-- ==== Sys2Proof/Certificates/Slice0/Obligations.lean ====
section
/-! DEFINITION. The statements for the provers. Each docstring names the rules of spec/ it formalises. -/

open Sys2Proof Sys2Proof.Machine

/-! ## Encoding -/

/-- R81, R84, R88: no bit of an encoding is dropped: decoding the code of a well-formed instruction gives the instruction back, for
every operand value. -/
def Obligations.DecodeOfEncodeIsIdentity : Prop :=
  ∀ i : Instr, i.wf = true → decode (encode i) = .ok i

/-- R85, D3: no two words mean the same thing: a word that decodes is the code of what it decodes to, which is a well-formed
command. -/
def Obligations.DecodedWordsEncodeBack : Prop :=
  ∀ (w : Word) (i : Instr), decodeCommand w = .ok i → encode i = .command w ∧ i.wf = true ∧ i.isCommand = true

/-- R85 (a) to (e), over the number of the word: exactly these words select no operation. Case (f) of R85 depends on a
parameter and is in `ChecksDecideInOrder`. -/
def Obligations.IllegalWordsAreThoseOfR85 : Prop :=
  ∀ w : Word,
    ((∃ e, decodeCommand w = .error e) ∨ (∃ x, decodeCommand w = .ok (.reservedD x))) ↔
      (w.toNat / 4096 = 0xD ∨
        w.toNat / 256 % 8 ≠ 0 ∨
        (w.toNat / 2048 % 2 = 1 ∧ 0x7 ≤ w.toNat / 4096) ∨
        (w.toNat % 256 ≠ 0 ∧ w.toNat / 4096 ∈ [0x0, 0x2, 0x3, 0x4, 0x5, 0x6, 0xA, 0xB, 0xC, 0xE, 0xF]) ∨
        (w.toNat / 4096 = 0x7 ∧ w.toNat / 2 % 128 ≠ 0))

/-- Words of R84 and R89 decode to the rows they stand for, and the two vector numbers of R88 to the events. -/
def Obligations.SpecWordsDecode : Prop :=
  decodeCommand 0x1041 = .ok (.rbInsert .rx 0x41) ∧ decodeCommand 0x2800 = .ok (.rbRemove .tx) ∧
  decodeCommand 0x8000 = .ok (.stInit 0x00) ∧ decodeCommand 0x904B = .ok (.stWriteByte 0x4B) ∧
  decodeCommand 0x7001 = .ok (.sysGie 0x01) ∧ decodeCommand 0xE000 = .ok .laPoll ∧
  decode (.vector 0) = .ok .evRx ∧ decode (.vector 1) = .ok .evTx

/-! ## The step and the command port -/

/-- R9, R46, R80(a): MAIN scheduled and idle, the next word of the command port is taken and the instruction it decodes to
is executed. Around `exec` the step consumes the schedule entry and the word. That `exec` of an idle MAIN is the
acceptance of the command is log 3; that the words wait in the state is log 2. -/
def Obligations.StepRunsTheDecodedCommand : Prop :=
  ∀ (s : State) (sch : List Agent) (w : Word) (ws : List Word) (i : Instr),
    s.inputs.schedule = .main :: sch → s.ctx.inIrq = false → s.main.op = none → s.inputs.cmds = w :: ws →
    decodeCommand w = .ok i →
    step s = exec i { s with inputs.schedule := sch, inputs.cmds := ws }

/-- R46: MAIN scheduled with an operation in progress, the step is that operation's next micro-step. -/
def Obligations.StepRunsTheOperationInProgress : Prop :=
  ∀ (s : State) (sch : List Agent) (i : Instr),
    s.inputs.schedule = .main :: sch → s.ctx.inIrq = false → s.main.op = some i →
    step s = exec i { s with inputs.schedule := sch }

/-- R85, R86, R183: a word that decodes to nothing is answered `F_ILLEGAL`, or `F_HALTED` once halted; the word is
consumed, the fault recorded, the response produced, and nothing else changes. That a fault is a next state is log 4. -/
def Obligations.StepAnswersAnIllegalWord : Prop :=
  ∀ (s : State) (sch : List Agent) (w : Word) (ws : List Word) (e : Reject),
    s.inputs.schedule = .main :: sch → s.ctx.inIrq = false → s.main = MainSeq.idle → s.inputs.cmds = w :: ws →
    decodeCommand w = .error e →
    ∃ c : ResultCode, c = (if s.faults.halted = true then .halted else .illegal) ∧
      step s = .next
        { s with
          inputs.schedule := sch
          inputs.cmds := ws
          faults.seen := true
          faults.code := if s.faults.seen = true then s.faults.code else c.num
          outputs.rsp := s.outputs.rsp ++ [rspWord c 0] }

/-- R9, R140, R145, R147: a schedule entry of another agent runs that agent's step, and with no command MAIN waits. That
the schedule stands in the state, and that MAIN waits by an unchanged state, is log 1. -/
def Obligations.StepRunsTheOtherAgents : Prop :=
  ∀ (s : State) (sch : List Agent),
    (s.inputs.schedule = .irq .rx :: sch → step s = exec .evRx { s with inputs.schedule := sch }) ∧
    (s.inputs.schedule = .irq .tx :: sch → step s = exec .evTx { s with inputs.schedule := sch }) ∧
    (s.inputs.schedule = .lineRx :: sch → step s = .next (arrive { s with inputs.schedule := sch })) ∧
    (s.inputs.schedule = .lineTx :: sch → step s = .next (take { s with inputs.schedule := sch })) ∧
    (s.inputs.schedule = .main :: sch → s.main.op = none → s.inputs.cmds = [] →
      step s = .next { s with inputs.schedule := sch })

/-- R86, R85, R185, R123, R111, R122, R46: MAIN idle, a command is answered by the first check that fails, in the order halted,
illegal, initialization, ownership, configuration, each check in terms of the command and the registers it reads; the answer
records the fault and produces the response, with value 0, and nothing else changes but `halted` for `F_CONFIG`. If none
fails the command is accepted at its first micro-step. `sysGie` with an operand above 1 is a term that no word stands for (log
21). That the checks are MAIN's acceptance step is log 3; that the selector of `ST_INIT` is checked there is log 15; that a
fault is a next state is log 4. -/
def Obligations.ChecksDecideInOrder : Prop :=
  ∀ (i : Instr) (s : State), i.isCommand = true → s.main.op = none →
    let illegal : Prop :=
      (∃ x, i = .reservedD x) ∨ (∃ imm : Byte, i = .sysGie imm ∧ 1 < imm.toNat) ∨
      (i = .laPoll ∨ i = .laDispatch) ∧ s.cfg.hasClient = false
    let uninit : Prop :=
      (∃ r, ((∃ b, i = .rbInsert r b) ∨ i = .rbRemove r ∨ i = .rbCount r ∨ i = .rbIsempty r ∨ i = .rbIsfull r ∨ i = .rbFlush r) ∧
        (s.ring r).initialized = false) ∨
      ((∃ b, i = .stWriteByte b) ∨ i = .stReadByte ∨ i = .stAvail ∨ i = .stWaitTc ∨ i = .laPoll ∨ i = .laDispatch) ∧
        s.xport.initialized = false
    let reinit : Prop := (∃ sel, i = .stInit sel) ∧ s.xport.initialized = true
    let ownership : Prop :=
      (i = .rbInit .rx ∨ ∃ b, i = .rbInsert .rx b) ∧ s.xport.rxIe = true ∨
      (i = .rbInit .tx ∨ i = .rbRemove .tx ∨ i = .rbFlush .tx) ∧ s.xport.txIe = true
    let config : Prop := ∃ sel, i = .stInit sel ∧ sel ∉ s.cfg.baudValid
    let answer (code : BitVec 4) : State :=
      { s with
        main := MainSeq.idle
        faults.seen := true
        faults.code := if s.faults.seen = true then s.faults.code else code
        outputs.rsp := s.outputs.rsp ++ [code ++ (0 : Word)] }
    (s.faults.halted = true → exec i s = .next (answer 9)) ∧
    (s.faults.halted = false → illegal → exec i s = .next (answer 5)) ∧
    (s.faults.halted = false → ¬ illegal → uninit → exec i s = .next (answer 4)) ∧
    (s.faults.halted = false → ¬ illegal → reinit → exec i s = .next (answer 7)) ∧
    (s.faults.halted = false → ¬ illegal → ¬ uninit → ¬ reinit → ownership → exec i s = .next (answer 6)) ∧
    (s.faults.halted = false → ¬ illegal → ¬ uninit → ¬ reinit → ¬ ownership → config →
      exec i s = .next { answer 1 with faults.halted := true }) ∧
    (s.faults.halted = false → ¬ illegal → ¬ uninit → ¬ reinit → ¬ ownership → ¬ config →
      exec i s = .next { s with main := { op := some i, phase := firstPhase i, byte := 0, toSend := [] } })

/-- R46, D36: while an operation is in progress the command port accepts no other command, and nothing changes. That a
command presented meanwhile changes nothing is log 16. -/
def Obligations.BusyPortAcceptsNothing : Prop :=
  ∀ (i j : Instr) (s : State), i.isCommand = true → s.main.op = some j → j ≠ i → exec i s = .next s

/-! ## Reset and the invariant -/

/-- R51, R210: the values the spec gives for power-on reset, whatever the parameters. The values R51 leaves unspecified
are not stated. -/
def Obligations.ResetHasTheSpecsValues : Prop :=
  ∀ c : Config, let s := State.resetWith c
    s.rx.initialized = false ∧ s.tx.initialized = false ∧ s.xport.initialized = false ∧
    s.xport.rxIe = false ∧ s.xport.txIe = false ∧ s.ctx.gie = false ∧ s.ctx.inIrq = false ∧
    s.line.on = false ∧ s.line.rxPending = false ∧
    s.faults.halted = false ∧ s.faults.seen = false ∧ s.faults.code = 0 ∧
    s.main.op = none ∧ s.outputs.wireOut = [] ∧
    s.client.lineBuf.toList = List.replicate 8 0 ∧ s.client.cmdBuf.toList = List.replicate 8 0 ∧
    s.client.widx = 0 ∧ s.client.cmdReady = false ∧ s.client.sensitivity = 0

/-- The invariant holds after power-on reset, whatever the parameters. It rests on the reset values of log 5 for the cursors and
counts, which the spec leaves open. -/
def Obligations.ResetMeetsTheInvariant : Prop := ∀ c : Config, Inv (State.resetWith c)

/-- R26, R27, R30, R36, R72, R122: every step of every agent keeps the invariant, in every state that meets it. The parts
of the invariant that speak of the model's own fields (`critSaved` empty between steps, the phases inside `ST_INIT`) rest
on logs 13 and 14. -/
def Obligations.EveryStepKeepsTheInvariant : Prop :=
  ∀ s t : State, Inv s → step s = .next t → Inv t

/-- R201, R183, R193, R63: in a state that meets the invariant no step stops: each answers a next state, whatever the schedule. That a
fault of the spec is a next state is log 4; that an agent whose step is not enabled leaves the state as it is, is log 1; the
two stops that exist are the model's own, log 17. -/
def Obligations.InvariantStatesNeverStop : Prop :=
  ∀ s : State, Inv s → ∃ t, step s = .next t

/-! ## Ring buffer -/

/-- R101: the micro-steps of `RB_INIT r` and its return. One step for each line of R101 is log 14. -/
def Obligations.RbInitMicroSteps : Prop :=
  ∀ (r : RingId) (s : State),
    (s.runs (.rbInit r) (.initIn r) →
      exec (.rbInit r) s = .next (goto (.initOut r) (s.setRing r { s.ring r with inp := 0 }))) ∧
    (s.runs (.rbInit r) (.initOut r) →
      exec (.rbInit r) s = .next (goto (.initCount r) (s.setRing r { s.ring r with out := 0 }))) ∧
    (s.runs (.rbInit r) (.initCount r) →
      exec (.rbInit r) s = .next (goto (.initMark r) (s.setRing r { s.ring r with count := 0 }))) ∧
    (s.runs (.rbInit r) (.initMark r) →
      exec (.rbInit r) s = .next (ret 0 (s.setRing r { s.ring r with initialized := true })))

/-- R101: `RB_INIT r` run by MAIN alone: cursors and count 0, marked, the storage untouched. That this takes MAIN five
steps is the model's choice: acceptance is a step of its own (log 3), each line of R101 one step (log 14). -/
def Obligations.RbInitEmptiesTheRing : Prop :=
  ∀ (r : RingId) (s : State), s.main.op = none → precheck (.rbInit r) s = none →
    mainRun (.rbInit r) 5 s = .next
      (ret 0 (s.setRing r { storage := (s.ring r).storage, inp := 0, out := 0, count := 0, initialized := true }))

/-- R102, R103, R110: the micro-steps of `RB_INSERT r, b`. -/
def Obligations.RbInsertMicroSteps : Prop :=
  ∀ (r : RingId) (b : Byte) (s : State),
    (s.runs (.rbInsert r b) .i0 → (s.ring r).count.toNat ≠ s.cap r →
      exec (.rbInsert r b) s = .next (goto .i1 s)) ∧
    (s.runs (.rbInsert r b) .i0 → (s.ring r).count.toNat = s.cap r →
      exec (.rbInsert r b) s = .next (raise .insertFull s)) ∧
    (s.runs (.rbInsert r b) .i1 → (s.ring r).inp < s.cap r →
      exec (.rbInsert r b) s = .next (goto .i2
        (s.setRing r { s.ring r with storage := Mem.write (s.ring r).storage (s.ring r).inp b }))) ∧
    (s.runs (.rbInsert r b) .i2 →
      exec (.rbInsert r b) s = .next (goto .i3 (s.setRing r { s.ring r with inp := wrap (s.cap r) (s.ring r).inp }))) ∧
    (s.runs (.rbInsert r b) .i3 →
      exec (.rbInsert r b) s = .next (ret 0 (s.setRing r { s.ring r with count := (s.ring r).count + 1 })))

/-- R102, R71: `RB_INSERT r, b` run by MAIN alone on a ring with room: the byte joins the end of the queue, the response
is `OK`, and the whole effect is the one of I1 to I3. The number of MAIN's steps counts the acceptance as one, log 3. -/
def Obligations.RbInsertAppendsToTheQueue : Prop :=
  ∀ (r : RingId) (b : Byte) (s : State), s.main.op = none → precheck (.rbInsert r b) s = none →
    RingOk (s.cap r) (s.ring r) → (s.ring r).count.toNat < s.cap r →
    ((s.ring r).out + (s.ring r).count.toNat) % s.cap r = (s.ring r).inp →
    ∃ t, mainRun (.rbInsert r b) 5 s = .next t ∧ t.contents r = s.contents r ++ [some b] ∧
      t = ret 0 (s.setRing r
        { s.ring r with
          storage := Mem.write (s.ring r).storage (s.ring r).inp b
          inp := ((s.ring r).inp + 1) % s.cap r
          count := (s.ring r).count + 1 })

/-- R104, R105, R110: the micro-steps of `RB_REMOVE r`. A slot that was never written gives a free byte (log 7). -/
def Obligations.RbRemoveMicroSteps : Prop :=
  ∀ (r : RingId) (b : Byte) (s : State),
    (s.runs (.rbRemove r) .x0 → (s.ring r).count ≠ 0 → exec (.rbRemove r) s = .next (goto .x1 s)) ∧
    (s.runs (.rbRemove r) .x0 → (s.ring r).count = 0 → exec (.rbRemove r) s = .next (raise .removeEmpty s)) ∧
    (s.runs (.rbRemove r) .x1 → (s.ring r).out < s.cap r → s.slot r (s.ring r).out = some b →
      exec (.rbRemove r) s = .next { s with main.byte := b, main.phase := .x2 }) ∧
    (s.runs (.rbRemove r) .x1 → (s.ring r).out < s.cap r → s.slot r (s.ring r).out = none →
      ∃ c, exec (.rbRemove r) s = .next { s with main.byte := c, main.phase := .x2, inputs.draws := s.inputs.draws + 1 }) ∧
    (s.runs (.rbRemove r) .x2 →
      exec (.rbRemove r) s = .next (goto .x3 (s.setRing r { s.ring r with out := wrap (s.cap r) (s.ring r).out }))) ∧
    (s.runs (.rbRemove r) .x3 →
      exec (.rbRemove r) s = .next
        (ret (s.main.byte.zeroExtend 16) (s.setRing r { s.ring r with count := (s.ring r).count - 1 })))

/-- R104, R71: `RB_REMOVE r` run by MAIN alone on a ring whose oldest byte is `b`: `b` is the response's value, it leaves
the head of the queue, and the slot keeps it. The number of MAIN's steps counts the acceptance as one, log 3. -/
def Obligations.RbRemoveTakesTheOldestByte : Prop :=
  ∀ (r : RingId) (b : Byte) (rest : List (Option Byte)) (s : State), s.main.op = none → precheck (.rbRemove r) s = none →
    (s.ring r).out < s.cap r → s.contents r = some b :: rest →
    ∃ t, mainRun (.rbRemove r) 5 s = .next t ∧ t.contents r = rest ∧
      t = ret (b.zeroExtend 16) (s.setRing r
        { s.ring r with out := ((s.ring r).out + 1) % s.cap r, count := (s.ring r).count - 1 })

/-- R103, R105: the insert into a full ring and the remove from an empty ring, run by MAIN alone: `F_INSERT_FULL` and
`F_REMOVE_EMPTY`, and nothing else changes. That a fault is a next state is log 4. The number of MAIN's steps counts the
acceptance as one, log 3. -/
def Obligations.RingContractBreachesFault : Prop :=
  ∀ (r : RingId) (b : Byte) (s : State), s.main = MainSeq.idle →
    (precheck (.rbInsert r b) s = none → (s.ring r).count.toNat = s.cap r →
      mainRun (.rbInsert r b) 2 s = .next
        { s with
          faults.seen := true
          faults.code := if s.faults.seen = true then s.faults.code else 2
          outputs.rsp := s.outputs.rsp ++ [0x20000] }) ∧
    (precheck (.rbRemove r) s = none → (s.ring r).count = 0 →
      mainRun (.rbRemove r) 2 s = .next
        { s with
          faults.seen := true
          faults.code := if s.faults.seen = true then s.faults.code else 3
          outputs.rsp := s.outputs.rsp ++ [0x30000] })

/-- R106, R128: the one micro-step of `RB_COUNT r` and of `ST_AVAIL` answers the occupancy, indivisibly, and changes nothing but MAIN
and the response: no flag, and with code `OK`. -/
def Obligations.CountReadsAnswerTheOccupancy : Prop :=
  ∀ (r : RingId) (s : State),
    (s.runs (.rbCount r) .single →
      exec (.rbCount r) s = .next
        { s with main := MainSeq.idle, outputs.rsp := s.outputs.rsp ++ [rspWord .ok (s.ring r).count] }) ∧
    (s.runs .stAvail .single →
      exec .stAvail s = .next
        { s with main := MainSeq.idle, outputs.rsp := s.outputs.rsp ++ [rspWord .ok s.rx.count] })

/-- R107, R108, R82: the one micro-step of `RB_ISEMPTY r` and of `RB_ISFULL r` answers from `count` (the comparison is the spec's reading,
D8) and changes nothing but MAIN and the response. -/
def Obligations.EmptyAndFullAnswerFromCount : Prop :=
  ∀ (r : RingId) (s : State),
    (s.runs (.rbIsempty r) .single →
      exec (.rbIsempty r) s = .next (ret (if (s.ring r).count = 0 then 1 else 0) s)) ∧
    (s.runs (.rbIsfull r) .single →
      exec (.rbIsfull r) s = .next (ret (if (s.ring r).count.toNat = s.cap r then 1 else 0) s))

/-- R109, R110: the micro-steps of `RB_FLUSH r`. A slot that was never written gives a free byte (log 7). -/
def Obligations.RbFlushMicroSteps : Prop :=
  ∀ (r : RingId) (b : Byte) (s : State),
    (s.runs (.rbFlush r) .f1 → (s.ring r).count = 0 → exec (.rbFlush r) s = .next (ret 0 s)) ∧
    (s.runs (.rbFlush r) .f1 → (s.ring r).count ≠ 0 → exec (.rbFlush r) s = .next (goto .x1 s)) ∧
    (s.runs (.rbFlush r) .x1 → (s.ring r).out < s.cap r → s.slot r (s.ring r).out = some b →
      exec (.rbFlush r) s = .next { s with main.byte := b, main.phase := .x2 }) ∧
    (s.runs (.rbFlush r) .x1 → (s.ring r).out < s.cap r → s.slot r (s.ring r).out = none →
      ∃ c, exec (.rbFlush r) s = .next { s with main.byte := c, main.phase := .x2, inputs.draws := s.inputs.draws + 1 }) ∧
    (s.runs (.rbFlush r) .x2 →
      exec (.rbFlush r) s = .next (goto .x3 (s.setRing r { s.ring r with out := wrap (s.cap r) (s.ring r).out }))) ∧
    (s.runs (.rbFlush r) .x3 →
      exec (.rbFlush r) s = .next (goto .f1 (s.setRing r { s.ring r with count := (s.ring r).count - 1 })))

/-- R109: `RB_FLUSH r` run by MAIN alone on a ring of written slots empties it in four micro-steps a byte: `out` advances
by the number of bytes removed, `in` and the slots stay, the response is `OK`. The number of MAIN's steps counts the
acceptance as one, log 3. -/
def Obligations.RbFlushEmptiesTheRing : Prop :=
  ∀ (r : RingId) (s : State), s.main.op = none → precheck (.rbFlush r) s = none → (s.ring r).out < s.cap r →
    (∀ k, k < (s.ring r).count.toNat → s.slot r (((s.ring r).out + k) % s.cap r) ≠ none) →
    mainRun (.rbFlush r) (2 + 4 * (s.ring r).count.toNat) s = .next
      (ret 0 (s.setRing r
        { s.ring r with out := ((s.ring r).out + (s.ring r).count.toNat) % s.cap r, count := 0 }))

/-- R111: the five command forms that the ownership check concerns, each with the enable that makes it a breach: where the ring is
initialized or the command is `RB_INIT`, the command is answered `F_OWNERSHIP` and changes nothing else; and no other
instruction is answered so, in whatever state of its enables. That a fault is a next state is log 4. -/
def Obligations.OwnershipBreachesAreRefused : Prop :=
  ∀ (i : Instr) (s : State), s.main = MainSeq.idle → s.faults.halted = false →
    let breach : Prop :=
      (i = .rbInit .rx ∨ (∃ b, i = .rbInsert .rx b) ∧ s.rx.initialized = true) ∧ s.xport.rxIe = true ∨
      (i = .rbInit .tx ∨ (i = .rbRemove .tx ∨ i = .rbFlush .tx) ∧ s.tx.initialized = true) ∧ s.xport.txIe = true
    (breach →
      exec i s = .next
        { s with
          faults.seen := true
          faults.code := if s.faults.seen = true then s.faults.code else 6
          outputs.rsp := s.outputs.rsp ++ [0x60000] }) ∧
    (∀ t, exec i s = .next t → t.outputs.rsp = s.outputs.rsp ++ [0x60000] → breach)

/-! ## Transport, main context -/

/-- R121, R131: the micro-steps of `ST_INIT sel`, one per assignment, in the order written. -/
def Obligations.StInitMicroSteps : Prop :=
  ∀ (sel : Byte) (s : State),
    (s.runs (.stInit sel) .cfgBaud → exec (.stInit sel) s = .next (goto .cfgLineOn { s with xport.baud := sel })) ∧
    (s.runs (.stInit sel) .cfgLineOn → exec (.stInit sel) s = .next (goto .cfgRxPending { s with line.on := true })) ∧
    (s.runs (.stInit sel) .cfgRxPending →
      exec (.stInit sel) s = .next (goto .cfgTxReady { s with line.rxPending := false })) ∧
    (s.runs (.stInit sel) .cfgTxReady →
      exec (.stInit sel) s = .next (goto (.initIn .rx) { s with line.txReady := true })) ∧
    (∀ r, s.runs (.stInit sel) (.initIn r) →
      exec (.stInit sel) s = .next (goto (.initOut r) (s.setRing r { s.ring r with inp := 0 }))) ∧
    (∀ r, s.runs (.stInit sel) (.initOut r) →
      exec (.stInit sel) s = .next (goto (.initCount r) (s.setRing r { s.ring r with out := 0 }))) ∧
    (∀ r, s.runs (.stInit sel) (.initCount r) →
      exec (.stInit sel) s = .next (goto (.initMark r) (s.setRing r { s.ring r with count := 0 }))) ∧
    (∀ r, s.runs (.stInit sel) (.initMark r) →
      exec (.stInit sel) s = .next (goto (match r with | .rx => .initIn .tx | .tx => .cfgRxStatus)
        (s.setRing r { s.ring r with initialized := true }))) ∧
    (s.runs (.stInit sel) .cfgRxStatus →
      exec (.stInit sel) s = .next (goto .cfgTxStatus { s with xport.rxStatus := .idleEmpty, xport.rxStatusSet := true })) ∧
    (s.runs (.stInit sel) .cfgTxStatus →
      exec (.stInit sel) s = .next (goto .cfgTxIe { s with xport.txStatus := .idleEmpty, xport.txStatusSet := true })) ∧
    (s.runs (.stInit sel) .cfgTxIe → exec (.stInit sel) s = .next (goto .cfgRxIe { s with xport.txIe := false })) ∧
    (s.runs (.stInit sel) .cfgRxIe → exec (.stInit sel) s = .next (goto .cfgMark { s with xport.rxIe := true })) ∧
    (s.runs (.stInit sel) .cfgMark → exec (.stInit sel) s = .next (ret 0 { s with xport.initialized := true }))

/-- R121: the whole effect of an `ST_INIT` that the checks admit, run by MAIN alone: the line configured, both rings reset
with their slots kept, both statuses `IDLE_EMPTY`, `rx_ie` set, `tx_ie` clear, marked; `gie` not written. The number of
MAIN's steps counts the acceptance as one, log 3, and each line of `RB_INIT` as one, log 14. -/
def Obligations.StInitConfiguresTheTransport : Prop :=
  ∀ (sel : Byte) (s : State), s.main = MainSeq.idle → precheck (.stInit sel) s = none →
    mainRun (.stInit sel) 18 s = .next
      { s with
        rx := { storage := s.rx.storage, inp := 0, out := 0, count := 0, initialized := true }
        tx := { storage := s.tx.storage, inp := 0, out := 0, count := 0, initialized := true }
        xport := { rxStatus := .idleEmpty, txStatus := .idleEmpty, rxStatusSet := true, txStatusSet := true,
                   initialized := true, baud := sel, rxIe := true, txIe := false }
        line := { s.line with on := true, rxPending := false, txReady := true }
        outputs.rsp := s.outputs.rsp ++ [0x00000] }

/-- R122, R182, R123: a selector outside `BAUD_VALID` is the fatal configuration error, and a second `ST_INIT` is refused
whatever its selector; each records its code, answers it, and changes nothing else but `halted` for the first. That the
selector is checked at acceptance is log 15. -/
def Obligations.StInitFaults : Prop :=
  ∀ (sel : Byte) (s : State), s.main = MainSeq.idle → s.faults.halted = false →
    (s.xport.initialized = false → sel ∉ s.cfg.baudValid →
      exec (.stInit sel) s = .next
        { s with
          faults := { halted := true, seen := true, code := if s.faults.seen = true then s.faults.code else 1 }
          outputs.rsp := s.outputs.rsp ++ [0x10000] }) ∧
    (s.xport.initialized = true →
      exec (.stInit sel) s = .next
        { s with
          faults := { halted := false, seen := true, code := if s.faults.seen = true then s.faults.code else 7 }
          outputs.rsp := s.outputs.rsp ++ [0x70000] })

/-- R184, R42: once halted, every command, the reserved word among them, is answered `F_HALTED` before any other check, and nothing
but the fault record and the response changes. -/
def Obligations.HaltedAnswersEveryCommand : Prop :=
  ∀ (i : Instr) (s : State), i.isCommand = true → s.main = MainSeq.idle → s.faults.halted = true →
    exec i s = .next
      { s with
        faults := { halted := true, seen := true, code := if s.faults.seen = true then s.faults.code else 9 }
        outputs.rsp := s.outputs.rsp ++ [0x90000] }

/-- R85(a), R184: the reserved opcode, whatever its other bits, is answered `F_ILLEGAL` with no other effect. -/
def Obligations.ReservedOpcodeIsIllegal : Prop :=
  ∀ (x : BitVec 12) (s : State), s.main = MainSeq.idle → s.faults.halted = false →
    exec (.reservedD x) s = .next
      { s with
        faults := { halted := false, seen := true, code := if s.faults.seen = true then s.faults.code else 5 }
        outputs.rsp := s.outputs.rsp ++ [0x50000] }

/-- R130: `SYS_GIE e` writes `gie` with bit 0 of the operand, returns `OK`, and changes nothing else. -/
def Obligations.SysGieWritesGie : Prop :=
  ∀ (imm : Byte) (s : State), s.runs (.sysGie imm) .single →
    exec (.sysGie imm) s = .next (ret 0 { s with ctx.gie := imm.getLsbD 0 })

/-- R124, R110: the micro-steps of `ST_WRITE_BYTE b`: W1 repeats while the ring is full, W2 arms. -/
def Obligations.StWriteByteMicroSteps : Prop :=
  ∀ (b : Byte) (s : State),
    (s.runs (.stWriteByte b) .w1 → s.tx.count.toNat = s.cap .tx → exec (.stWriteByte b) s = .next s) ∧
    (s.runs (.stWriteByte b) .w1 → s.tx.count.toNat ≠ s.cap .tx → exec (.stWriteByte b) s = .next (goto .i1 s)) ∧
    (s.runs (.stWriteByte b) .i1 → s.tx.inp < s.cap .tx →
      exec (.stWriteByte b) s = .next (goto .i2 { s with tx.storage := Mem.write s.tx.storage s.tx.inp b })) ∧
    (s.runs (.stWriteByte b) .i2 →
      exec (.stWriteByte b) s = .next (goto .i3 { s with tx.inp := wrap (s.cap .tx) s.tx.inp })) ∧
    (s.runs (.stWriteByte b) .i3 →
      exec (.stWriteByte b) s = .next (goto .w2 { s with tx.count := s.tx.count + 1 })) ∧
    (s.runs (.stWriteByte b) .w2 → exec (.stWriteByte b) s = .next (ret 0 { s with xport.txIe := true }))

/-- R124, R71: `ST_WRITE_BYTE b` run by MAIN alone on a ring with room: the byte joins the queue, the notification is
armed, `tx_status` is not written. The number of MAIN's steps counts the acceptance as one, log 3. -/
def Obligations.StWriteByteQueuesAndArms : Prop :=
  ∀ (b : Byte) (s : State), s.main.op = none → precheck (.stWriteByte b) s = none →
    RingOk (s.cap .tx) s.tx → s.tx.count.toNat < s.cap .tx →
    (s.tx.out + s.tx.count.toNat) % s.cap .tx = s.tx.inp →
    ∃ t, mainRun (.stWriteByte b) 6 s = .next t ∧ t.contents .tx = s.contents .tx ++ [some b] ∧
      t = ret 0
        { s with
          tx.storage := Mem.write s.tx.storage s.tx.inp b
          tx.inp := (s.tx.inp + 1) % s.cap .tx
          tx.count := s.tx.count + 1
          xport.txIe := true }

/-- R201, R220: with interrupts masked, a `write_byte` that waits for room waits for ever: whichever agent steps, MAIN stays at W1, the
TX ring stays as it is and interrupts stay masked. -/
def Obligations.MaskedWriteNeverLeavesItsWait : Prop :=
  ∀ (b : Byte) (s t : State), s.runs (.stWriteByte b) .w1 → s.tx.count.toNat = s.cap .tx → s.ctx.gie = false →
    step s = .next t →
    t.runs (.stWriteByte b) .w1 ∧ t.tx = s.tx ∧ t.cap .tx = s.cap .tx ∧ t.ctx.gie = false ∧ t.outputs.rsp = s.outputs.rsp

/-- R127, R110: the micro-steps of `ST_READ_BYTE`. A slot that was never written gives a free byte (log 7). -/
def Obligations.StReadByteMicroSteps : Prop :=
  ∀ (b : Byte) (s : State),
    (s.runs .stReadByte .g1 → s.rx.count = 0 → exec .stReadByte s = .next (goto .g2 s)) ∧
    (s.runs .stReadByte .g1 → s.rx.count ≠ 0 → exec .stReadByte s = .next (goto .x1 s)) ∧
    (s.runs .stReadByte .g2 →
      exec .stReadByte s = .next (ret 0 { s with xport.rxStatus := .idleEmpty, xport.rxStatusSet := true })) ∧
    (s.runs .stReadByte .x1 → s.rx.out < s.cap .rx → s.slot .rx s.rx.out = some b →
      exec .stReadByte s = .next { s with main.byte := b, main.phase := .x2 }) ∧
    (s.runs .stReadByte .x1 → s.rx.out < s.cap .rx → s.slot .rx s.rx.out = none →
      ∃ c, exec .stReadByte s = .next { s with main.byte := c, main.phase := .x2, inputs.draws := s.inputs.draws + 1 }) ∧
    (s.runs .stReadByte .x2 →
      exec .stReadByte s = .next (goto .x3 { s with rx.out := wrap (s.cap .rx) s.rx.out })) ∧
    (s.runs .stReadByte .x3 →
      exec .stReadByte s = .next (ret (s.main.byte.zeroExtend 16) { s with rx.count := s.rx.count - 1 }))

/-- R127, R71: `ST_READ_BYTE` run by MAIN alone: it takes the oldest byte of RX and leaves `rx_status`, or, on an empty
ring, answers the sentinel and sets `rx_status` to `IDLE_EMPTY`. The number of MAIN's steps counts the acceptance as one,
log 3. -/
def Obligations.StReadByteTakesTheOldestByteOrTheSentinel : Prop :=
  ∀ (b : Byte) (rest : List (Option Byte)) (s : State), s.main.op = none → precheck .stReadByte s = none →
    s.rx.out < s.cap .rx →
    (s.contents .rx = some b :: rest →
      ∃ t, mainRun .stReadByte 5 s = .next t ∧ t.contents .rx = rest ∧
        t = ret (b.zeroExtend 16) { s with rx.out := (s.rx.out + 1) % s.cap .rx, rx.count := s.rx.count - 1 }) ∧
    (s.contents .rx = [] →
      mainRun .stReadByte 3 s = .next (ret 0 { s with xport.rxStatus := .idleEmpty, xport.rxStatusSet := true }))

/-- R129: each read of `tx_status` that sees `TRANSMITTING` leaves the wait where it is; any other value ends it. -/
def Obligations.StWaitTcWaitsWhileTransmitting : Prop :=
  ∀ s : State, s.runs .stWaitTc .t1 →
    (s.xport.txStatus = .transmitting → exec .stWaitTc s = .next s) ∧
    (s.xport.txStatus ≠ .transmitting → exec .stWaitTc s = .next (ret 0 s))

/-! ## Events, line device, critical section -/

/-- R140, R141, R142, R189, R191, R192: the receive event. Its trigger: no handler runs, `gie = 1`, `rx_ie = 1`, `rx_pending = 1`,
and not `IRQ_ORDER = TX_FIRST` with `irq_tx` high (log 20). Without the trigger nothing changes (log 1). With it, a byte that
finds the ring full is dropped and the status says so; otherwise it is stored and counted. The handler clears `rx_pending`,
returns with `gie` set and `in_irq` clear, and leaves the rest. -/
def Obligations.EvRxStoresOrDropsTheByte : Prop :=
  ∀ s : State,
    let trigger : Prop :=
      s.ctx.inIrq = false ∧ s.ctx.gie = true ∧ s.xport.rxIe = true ∧ s.line.rxPending = true ∧
      ¬ (s.cfg.irqOrder = .txFirst ∧ s.xport.txIe = true ∧ s.line.txReady = true)
    (¬ trigger → exec .evRx s = .next s) ∧
    (trigger → s.rx.count.toNat = s.cap .rx →
      exec .evRx s = .next
        { s with
          line.rxPending := false, xport.rxStatus := .bufferFull, xport.rxStatusSet := true
          ctx.gie := true, ctx.inIrq := false }) ∧
    (trigger → s.rx.count.toNat ≠ s.cap .rx → s.rx.inp < s.cap .rx →
      exec .evRx s = .next
        { s with
          line.rxPending := false, xport.rxStatus := .dataPending, xport.rxStatusSet := true
          rx.storage := Mem.write s.rx.storage s.rx.inp s.line.rxData
          rx.inp := wrap (s.cap .rx) s.rx.inp
          rx.count := s.rx.count + 1
          ctx.gie := true, ctx.inIrq := false })

/-- R140, R143, R144, R189, R191, R192: the transmit-ready event. Its trigger: no handler runs, `gie = 1`, `tx_ie = 1`, `tx_ready = 1`,
and not `IRQ_ORDER = RX_FIRST` with `irq_rx` high (log 20). Without the trigger nothing changes (log 1). With it, on an empty
ring it disarms; otherwise it hands the oldest byte to the device. A slot that was never written gives a free byte, log 7. -/
def Obligations.EvTxSendsOrDisarms : Prop :=
  ∀ (s : State) (b : Byte),
    let trigger : Prop :=
      s.ctx.inIrq = false ∧ s.ctx.gie = true ∧ s.xport.txIe = true ∧ s.line.txReady = true ∧
      ¬ (s.cfg.irqOrder = .rxFirst ∧ s.xport.rxIe = true ∧ s.line.rxPending = true)
    (¬ trigger → exec .evTx s = .next s) ∧
    (trigger → s.tx.count = 0 →
      exec .evTx s = .next
        { s with
          xport.txIe := false, xport.txStatus := .idleEmpty, xport.txStatusSet := true
          ctx.gie := true, ctx.inIrq := false }) ∧
    (trigger → s.tx.count ≠ 0 → s.tx.out < s.cap .tx → s.slot .tx s.tx.out = some b →
      exec .evTx s = .next
        { s with
          tx.out := wrap (s.cap .tx) s.tx.out
          tx.count := s.tx.count - 1
          line.txData := b, line.txReady := false
          xport.txStatus := .transmitting, xport.txStatusSet := true
          ctx.gie := true, ctx.inIrq := false }) ∧
    (trigger → s.tx.count ≠ 0 → s.tx.out < s.cap .tx → s.slot .tx s.tx.out = none →
      ∃ c, exec .evTx s = .next
        { s with
          tx.out := wrap (s.cap .tx) s.tx.out
          tx.count := s.tx.count - 1
          line.txData := c, line.txReady := false
          xport.txStatus := .transmitting, xport.txStatusSet := true
          inputs.draws := s.inputs.draws + 1
          ctx.gie := true, ctx.inIrq := false })

/-- R189: both events requested, interrupts enabled and no handler running. With `IRQ_ORDER = ANY` each handler can start and the two
orders end in the same state; with `RX_FIRST` the transmit-ready handler does not start and the receive handler runs, with
`TX_FIRST` the converse (log 20; that a handler which does not start leaves the state as it is, is log 1). -/
def Obligations.TheTwoEventsCommute : Prop :=
  ∀ s : State, s.ctx.inIrq = false → s.ctx.gie = true → s.xport.rxIe = true → s.line.rxPending = true →
    s.xport.txIe = true → s.line.txReady = true →
    (s.cfg.irqOrder = .any →
      ∀ a b c d : State, exec .evRx s = .next a → exec .evTx a = .next b → exec .evTx s = .next c → exec .evRx c = .next d →
        b = d) ∧
    (s.cfg.irqOrder ≠ .txFirst → ∀ a, exec .evRx s = .next a → a.line.rxPending = false) ∧
    (s.cfg.irqOrder ≠ .rxFirst → ∀ c, exec .evTx s = .next c → c.xport.txIe = false ∨ c.line.txReady = false) ∧
    (s.cfg.irqOrder = .rxFirst → exec .evTx s = .next s) ∧
    (s.cfg.irqOrder = .txFirst → exec .evRx s = .next s)

/-- R151: no handler produces a response word or records a fault, and in a state that meets the invariant none stops. -/
def Obligations.HandlersNeverFaultNorRespond : Prop :=
  ∀ (i : Instr) (s : State), i = .evRx ∨ i = .evTx →
    (∀ t, exec i s = .next t → t.outputs.rsp = s.outputs.rsp ∧ t.faults = s.faults) ∧
    (Inv s → ∃ t, exec i s = .next t)

/-- R145, R146: an arrival: delivered when no byte is pending, without effect while the line is off, and on an overrun
exactly one of the two bytes is kept, which one being open; each consumes the byte. The free choice on an overrun is log
9. -/
def Obligations.ArrivalDeliversOrOverruns : Prop :=
  ∀ (s : State) (b : Byte) (bs : List Byte), s.inputs.wireIn = b :: bs →
    (s.line.on = false → arrive s = { s with inputs.wireIn := bs }) ∧
    (s.line.on = true → s.line.rxPending = false →
      arrive s = { s with inputs.wireIn := bs, line.rxData := b, line.rxPending := true }) ∧
    (s.line.on = true → s.line.rxPending = true →
      ∃ k, (k = b ∨ k = s.line.rxData) ∧
        arrive s = { s with inputs.wireIn := bs, inputs.draws := s.inputs.draws + 1, line.rxData := k })

/-- R147: `TAKE` appends `tx_data` to `wire_out` and makes the device ready; where it is not enabled nothing changes. That
a step that is not enabled leaves the state as it is, is log 1. -/
def Obligations.TakePutsTheByteOnTheLine : Prop :=
  ∀ s : State,
    (s.line.on = true → s.line.txReady = false →
      take s = { s with outputs.wireOut := s.outputs.wireOut ++ [s.line.txData], line.txReady := true }) ∧
    (s.line.on = false ∨ s.line.txReady = true → take s = s)

/-- R148, R68: a critical section whose body leaves the saved states alone runs its body with interrupts masked and
restores the interrupt state it found; it does not unconditionally enable. The critical section is one step of MAIN, log
13. -/
def Obligations.CriticalSectionRestoresTheMask : Prop :=
  ∀ (body : State → State) (s : State),
    (body (enterCrit s)).ctx.critSaved = s.ctx.gie :: s.ctx.critSaved →
    (enterCrit s).ctx.gie = false ∧
    atomically body s =
      { body (enterCrit s) with
        ctx.gie := s.ctx.gie
        ctx.critSaved := s.ctx.critSaved }

/-! ## Reference client -/

/-- R162 to R165: the micro-steps of `LA_POLL`: the test P1; the removal; the handoff and the two writes after it; the
store, with the fault of a line that is too long. The steps R162 leaves unnamed are log 14; an unwritten slot gives a free
byte, log 7. -/
def Obligations.LaPollMicroSteps : Prop :=
  ∀ (b : Byte) (s : State),
    (s.runs .laPoll .p1 → s.rx.count = 0 → exec .laPoll s = .next (ret 0 s)) ∧
    (s.runs .laPoll .p1 → s.rx.count ≠ 0 → exec .laPoll s = .next (goto .x1 s)) ∧
    (s.runs .laPoll .x1 → s.rx.out < s.cap .rx → s.slot .rx s.rx.out = some b →
      exec .laPoll s = .next { s with main.byte := b, main.phase := .x2 }) ∧
    (s.runs .laPoll .x1 → s.rx.out < s.cap .rx → s.slot .rx s.rx.out = none →
      ∃ c, exec .laPoll s = .next { s with main.byte := c, main.phase := .x2, inputs.draws := s.inputs.draws + 1 }) ∧
    (s.runs .laPoll .x2 → exec .laPoll s = .next (goto .x3 { s with rx.out := wrap (s.cap .rx) s.rx.out })) ∧
    (s.runs .laPoll .x3 →
      exec .laPoll s = .next (goto (if s.main.byte = 0x0A then .handoff else .store) { s with rx.count := s.rx.count - 1 })) ∧
    (s.runs .laPoll .handoff →
      exec .laPoll s = .next (goto .handoffIdx
        { s with client.cmdBuf := s.client.lineBuf, client.lineBuf := Vector.replicate 8 0 })) ∧
    (s.runs .laPoll .handoffIdx → exec .laPoll s = .next (goto .handoffReady { s with client.widx := 0 })) ∧
    (s.runs .laPoll .handoffReady → exec .laPoll s = .next (goto .p1 { s with client.cmdReady := true })) ∧
    (s.runs .laPoll .store → s.client.widx < 7 →
      exec .laPoll s = .next (goto .storeIdx
        { s with client.lineBuf := s.client.lineBuf.setIfInBounds s.client.widx s.main.byte })) ∧
    (s.runs .laPoll .store → 7 ≤ s.client.widx → exec .laPoll s = .next (raise .lineTooLong s)) ∧
    (s.runs .laPoll .storeIdx → exec .laPoll s = .next (goto .p1 { s with client.widx := s.client.widx + 1 }))

/-- R174, R162 to R165: the round trip: a line of at most 7 bytes without a terminator, followed by the terminator,
waiting in RX with the line buffer empty, is reconstructed in the command buffer, its tail zero, when MAIN alone runs
`LA_POLL`. The number of MAIN's steps rests on logs 3 and 14. -/
def Obligations.PolledLineReachesTheCommandBuffer : Prop :=
  ∀ (line : List Byte) (s : State), s.main.op = none → precheck .laPoll s = none → s.rx.out < s.cap .rx →
    line.length ≤ 7 → (∀ b ∈ line, b ≠ 0x0A) →
    s.contents .rx = line.map some ++ [some 0x0A] →
    s.client.widx = 0 → s.client.lineBuf = Vector.replicate 8 0 →
    ∃ t, mainRun .laPoll (6 * line.length + 9) s = .next t ∧
      t.client.cmdBuf.toList = line ++ List.replicate (8 - line.length) 0 ∧
      t.client.lineBuf = Vector.replicate 8 0 ∧ t.client.widx = 0 ∧ t.client.cmdReady = true ∧
      t.contents .rx = [] ∧ t.main.op = none ∧ t.outputs.rsp = s.outputs.rsp ++ [0x00000]

/-- R167 to R171: the micro-steps of `LA_DISPATCH`: nothing ready; a query of `S`, of an external key, of an unknown key;
no marker; an assignment to `S` of a value the spec defines and of one it leaves open, to an external key, to an unknown
key; the sending of a byte; the end. What an external query sends is the free text of log 11, the open value that of log
10. One step for each test and assignment is log 14. -/
def Obligations.LaDispatchMicroSteps : Prop :=
  ∀ (v : Word) (b : Byte) (bs : List Byte) (s : State),
    (s.runs .laDispatch .route → s.client.cmdReady = false → exec .laDispatch s = .next (ret 0 s)) ∧
    (s.runs .laDispatch .route → s.client.cmdReady = true → s.client.cmdBuf[1] = 0x3F → s.client.cmdBuf[0] = 0x53 →
      exec .laDispatch s = .next
        { s with main.toSend := sensitivityText s.client.sensitivity, main.phase := .w1 }) ∧
    (s.runs .laDispatch .route → s.client.cmdReady = true → s.client.cmdBuf[1] = 0x3F →
      s.client.cmdBuf[0] ∉ ([0x53, 0x54, 0x44, 0x48] : List Byte) → exec .laDispatch s = .next (goto .done s)) ∧
    (s.runs .laDispatch .route → s.client.cmdReady = true → s.client.cmdBuf[1] = 0x3F →
      s.client.cmdBuf[0] ∈ ([0x54, 0x44, 0x48] : List Byte) →
      ∃ text,
        (s.client.cmdBuf[0] = 0x54 ∧ (∃ l, text = probeText l) ∨ s.client.cmdBuf[0] = 0x44 ∧ (∃ c, text = clockText c) ∨
          s.client.cmdBuf[0] = 0x48 ∧ ∃ p, text = humidityText p) ∧
        exec .laDispatch s = .next
        { s with
          main.toSend := text
          main.phase := if text = [] then .done else .w1
          inputs.draws := s.inputs.draws + 1
          outputs.extCalls := s.outputs.extCalls ++ [.query s.client.cmdBuf[0]] }) ∧
    (s.runs .laDispatch .route → s.client.cmdReady = true → s.client.cmdBuf[1] = 0x3D →
      exec .laDispatch s = .next (goto .assign s)) ∧
    (s.runs .laDispatch .route → s.client.cmdReady = true → s.client.cmdBuf[1] ≠ 0x3F → s.client.cmdBuf[1] ≠ 0x3D →
      exec .laDispatch s = .next (goto .done s)) ∧
    (s.runs .laDispatch .assign → s.client.cmdBuf[0] = 0x53 → parseInt (content s.client.cmdBuf) = some v →
      exec .laDispatch s = .next (goto .done { s with client.sensitivity := v })) ∧
    (s.runs .laDispatch .assign → s.client.cmdBuf[0] = 0x53 → parseInt (content s.client.cmdBuf) = none →
      ∃ w, exec .laDispatch s = .next
        (goto .done { s with client.sensitivity := w, inputs.draws := s.inputs.draws + 1 })) ∧
    (s.runs .laDispatch .assign → s.client.cmdBuf[0] ∈ ([0x54, 0x44, 0x48] : List Byte) →
      parseInt (content s.client.cmdBuf) = some v →
      exec .laDispatch s = .next
        (goto .done { s with outputs.extCalls := s.outputs.extCalls ++ [.assign s.client.cmdBuf[0] v] })) ∧
    (s.runs .laDispatch .assign → s.client.cmdBuf[0] ∈ ([0x54, 0x44, 0x48] : List Byte) →
      parseInt (content s.client.cmdBuf) = none →
      ∃ w, exec .laDispatch s = .next
        (goto .done
          { s with
            outputs.extCalls := s.outputs.extCalls ++ [.assign s.client.cmdBuf[0] w]
            inputs.draws := s.inputs.draws + 1 })) ∧
    (s.runs .laDispatch .assign → s.client.cmdBuf[0] ∉ ([0x53, 0x54, 0x44, 0x48] : List Byte) →
      parseInt (content s.client.cmdBuf) = some v → exec .laDispatch s = .next (goto .done s)) ∧
    (s.runs .laDispatch .assign → s.client.cmdBuf[0] ∉ ([0x53, 0x54, 0x44, 0x48] : List Byte) →
      parseInt (content s.client.cmdBuf) = none →
      exec .laDispatch s = .next (goto .done { s with inputs.draws := s.inputs.draws + 1 })) ∧
    (s.runs .laDispatch .w1 → s.tx.count.toNat = s.cap .tx → exec .laDispatch s = .next s) ∧
    (s.runs .laDispatch .w1 → s.tx.count.toNat ≠ s.cap .tx → exec .laDispatch s = .next (goto .i1 s)) ∧
    (s.runs .laDispatch .i1 → s.tx.inp < s.cap .tx → s.main.toSend = b :: bs →
      exec .laDispatch s = .next (goto .i2 { s with tx.storage := Mem.write s.tx.storage s.tx.inp b })) ∧
    (s.runs .laDispatch .i2 →
      exec .laDispatch s = .next (goto .i3 { s with tx.inp := wrap (s.cap .tx) s.tx.inp })) ∧
    (s.runs .laDispatch .i3 →
      exec .laDispatch s = .next (goto .w2 { s with tx.count := s.tx.count + 1 })) ∧
    (s.runs .laDispatch .w2 → s.main.toSend = b :: bs →
      exec .laDispatch s = .next
        { s with xport.txIe := true, main.toSend := bs, main.phase := if bs = [] then .done else .w1 }) ∧
    (s.runs .laDispatch .done → exec .laDispatch s = .next (ret 0 { s with client.cmdReady := false }))

/-- R169, R167: the query of `S` with room for the response, run by MAIN alone: `sensitivity = <n>` and a line end join
the TX queue, the notification is armed, the state returns to Accumulating. The number of MAIN's steps rests on logs 3 and
14. -/
def Obligations.SensitivityQueryQueuesItsResponse : Prop :=
  ∀ s : State, s.main.op = none → precheck .laDispatch s = none → RingOk (s.cap .tx) s.tx →
    (s.tx.out + s.tx.count.toNat) % s.cap .tx = s.tx.inp →
    s.client.cmdReady = true → s.client.cmdBuf[0] = 0x53 → s.client.cmdBuf[1] = 0x3F →
    s.tx.count.toNat + (sensitivityText s.client.sensitivity).length ≤ s.cap .tx →
    ∃ t, mainRun .laDispatch (5 * (sensitivityText s.client.sensitivity).length + 3) s = .next t ∧
      t.contents .tx = s.contents .tx ++ (sensitivityText s.client.sensitivity).map some ∧
      t.xport.txIe = true ∧ t.client.cmdReady = false ∧ t.main.op = none ∧
      t.outputs.rsp = s.outputs.rsp ++ [0x00000]

/-- R168, R175, R126: the integer of a command content. A content without an equals sign gives 0. After the first equals sign,
whatever stands before it, an optional sign and one or more digits and nothing else give the signed decimal value where 16
bits hold it, and no stated value (`none`) where they do not; any other suffix, the absent one included, gives 0. So the
decimal spelling of every 16-bit number, after an equals sign, parses to that number. The content itself is the bytes of the
buffer before its first zero, or all of them. What an assignment takes for `none` is the free value of log 10. -/
def Obligations.ParseOfDecimalSpellingIsIdentity : Prop :=
  (∀ lead : List Byte, (∀ b ∈ lead, b ≠ 0x3D) → parseInt lead = some 0) ∧
  (∀ lead sign digits : List Byte, (∀ b ∈ lead, b ≠ 0x3D) → IsSign sign → IsDigits digits →
    let v : Int := if sign = [0x2D] then -(decimalValue digits : Int) else (decimalValue digits : Int)
    parseInt (lead ++ 0x3D :: (sign ++ digits)) = if -32768 ≤ v ∧ v ≤ 32767 then some (BitVec.ofInt 16 v) else none) ∧
  (∀ lead suffix : List Byte, (∀ b ∈ lead, b ≠ 0x3D) →
    (∀ sign digits, suffix = sign ++ digits → IsSign sign → ¬ IsDigits digits) →
    parseInt (lead ++ 0x3D :: suffix) = some 0) ∧
  (∀ v : Word, parseInt (0x3D :: dec v) = some v) ∧
  (∀ (buf : Vector Byte 8) (bs rest : List Byte), buf.toList = bs ++ rest → (∀ b ∈ bs, b ≠ 0) →
    rest = [] ∨ rest.head? = some 0 → content buf = bs)

/-- R125, R126, R90: `write_string` is one `ST_WRITE_BYTE` per byte in index order, zero bytes too, and `write_formatted_number v` the
`write_string` of `dec v`, for every `v`. `dec v` is a minus sign where `v` is negative and nothing where it is not, then
digits whose value is `|v|`, most significant first, without a leading zero but for zero itself, and no shorter sequence of
digits has that value. -/
def Obligations.PseudoOperationsExpand : Prop :=
  (∀ (bs : List Byte) (k : Nat), (writeString bs)[k]? = bs[k]?.map Instr.stWriteByte) ∧
  (∀ v : Word, writeFormattedNumber v = writeString (dec v)) ∧
  ∀ v : Word, ∃ digits : List Byte,
    dec v = (if v.toInt < 0 then [0x2D] else []) ++ digits ∧
    IsDigits digits ∧ decimalValue digits = v.toInt.natAbs ∧
    (digits.head? = some 0x30 → digits = [0x30]) ∧
    ∀ other, IsDigits other → decimalValue other = v.toInt.natAbs → digits.length ≤ other.length

/-! ## Whole-machine rules -/

/-- R42, R25, R39, R43, R45, R183, R211: no step of any agent clears `halted`, `fault_seen`, `rx_ie`, `line_on` or an initialized mark,
changes a recorded fault code or a parameter, or shortens what has been sent or answered. `rx_ie` is set by `ST_INIT` alone, at
its micro-step `rx_ie <- 1`. -/
def Obligations.MarksAndRecordsAreSticky : Prop :=
  ∀ s t : State, step s = .next t →
    (s.faults.halted = true → t.faults.halted = true) ∧
    (s.faults.seen = true → t.faults.seen = true ∧ t.faults.code = s.faults.code) ∧
    (s.xport.rxIe = true → t.xport.rxIe = true) ∧
    (s.xport.rxIe = false → t.xport.rxIe = true → ∃ sel, s.runs (.stInit sel) .cfgRxIe) ∧
    (s.line.on = true → t.line.on = true) ∧
    (s.rx.initialized = true → t.rx.initialized = true) ∧ (s.tx.initialized = true → t.tx.initialized = true) ∧
    (s.xport.initialized = true → t.xport.initialized = true) ∧ t.cfg = s.cfg ∧
    s.outputs.wireOut <+: t.outputs.wireOut ∧ s.outputs.rsp <+: t.outputs.rsp

/-- R29: with the transport running each cursor has one writer: no step of MAIN writes `RX.in` or a slot of RX or `TX.out` while IRQ may,
and no handler writes `RX.out`, `TX.in` or a slot of TX. -/
def Obligations.EachCursorHasOneWriter : Prop :=
  (∀ s t : State, Inv s → mainStep s = .next t →
    (s.xport.rxIe = true → t.rx.inp = s.rx.inp ∧ t.rx.storage = s.rx.storage) ∧
    (s.xport.txIe = true → t.tx.out = s.tx.out)) ∧
  (∀ (i : Instr) (s t : State), i = .evRx ∨ i = .evTx → exec i s = .next t →
    t.rx.out = s.rx.out ∧ t.tx.inp = s.tx.inp ∧ t.tx.storage = s.tx.storage)

/-- R229: a quiescent state is left by no step: only the schedule and the draw counter move. The draw counter moves only
where the scheduler's choice is free (log 1). -/
def Obligations.QuiescentStatesStay : Prop :=
  ∀ s t : State, Quiescent s → step s = .next t →
    Quiescent t ∧ ∃ sch d, t = { s with inputs.schedule := sch, inputs.draws := d }

/-- R80(e), R52, R87: a status port reads the register's code once a write has defined the register, with no side effect.
What a port reads before that is free (log 8). -/
def Obligations.StatusPortsReadTheRegisters : Prop :=
  (∀ (s : State) (k : Nat),
    (s.xport.rxStatusSet = true → s.rxStatusPort k =
      (match s.xport.rxStatus with | .idleEmpty => 0 | .dataPending => 1 | .transmitting => 2 | .bufferFull => 3)) ∧
    (s.xport.txStatusSet = true → s.txStatusPort k =
      (match s.xport.txStatus with | .idleEmpty => 0 | .dataPending => 1 | .transmitting => 2 | .bufferFull => 3))) ∧
  (∀ s t : State, step s = .next t →
    (s.xport.rxStatusSet = true → t.xport.rxStatusSet = true) ∧ (s.xport.txStatusSet = true → t.xport.txStatusSet = true))

/-! ## Frames -/

/-- The frame of the commands that store nothing (R106 to R108, R128, R129, R85): `RB_COUNT`, `RB_ISEMPTY`, `RB_ISFULL`, `ST_AVAIL`,
`ST_WAIT_TC` and the reserved word change MAIN, the responses and the fault record alone; every slot reads as before. -/
def Obligations.ReadingCommandsFrame : Prop :=
  ∀ (i : Instr) (s t : State),
    (∃ r, i = .rbCount r ∨ i = .rbIsempty r ∨ i = .rbIsfull r) ∨ i = .stAvail ∨ i = .stWaitTc ∨ (∃ x, i = .reservedD x) →
    exec i s = .next t →
    t.cfg = s.cfg ∧ t.xport = s.xport ∧ t.line = s.line ∧ t.ctx = s.ctx ∧ t.client = s.client ∧
    SameRing .rx s t ∧ SameRing .tx s t ∧ SameWorld s t ∧ FaultsMayGrow s t ∧ ResponsesMayGrow s t

/-- The frame of the ring commands that write (R101, R102, R104, R109): only their ring, MAIN, the responses, the fault record and, where
an unwritten slot is read, the draw counter change. An insert stores at the slot `in` names, so every other slot reads as before, and
leaves `out` and the mark; a remove or a flush stores nothing and leaves `in` and the mark; an init stores nothing. -/
def Obligations.WritingRingCommandsFrame : Prop :=
  ∀ (r : RingId) (i : Instr) (s t : State),
    i = .rbInit r ∨ (∃ b, i = .rbInsert r b) ∨ i = .rbRemove r ∨ i = .rbFlush r → exec i s = .next t →
    t.cfg = s.cfg ∧ t.xport = s.xport ∧ t.line = s.line ∧ t.ctx = s.ctx ∧ t.client = s.client ∧
    t.inputs.cmds = s.inputs.cmds ∧ t.inputs.wireIn = s.inputs.wireIn ∧ t.inputs.schedule = s.inputs.schedule ∧
    t.outputs.wireOut = s.outputs.wireOut ∧ t.outputs.extCalls = s.outputs.extCalls ∧
    FaultsMayGrow s t ∧ ResponsesMayGrow s t ∧
    (∀ q, q ≠ r → SameRing q s t) ∧
    (i = .rbInit r → ∀ k, t.slot r k = s.slot r k) ∧
    (∀ b, i = .rbInsert r b →
      (t.ring r).out = (s.ring r).out ∧ (t.ring r).initialized = (s.ring r).initialized ∧
      t.inputs.draws = s.inputs.draws ∧ ∀ k, k ≠ (s.ring r).inp → t.slot r k = s.slot r k) ∧
    (i = .rbRemove r ∨ i = .rbFlush r →
      (t.ring r).inp = (s.ring r).inp ∧ (t.ring r).initialized = (s.ring r).initialized ∧
      ∀ k, t.slot r k = s.slot r k)

/-- The frame of the transport's commands that write (R121, R124, R127, R130): `SYS_GIE` writes `gie` alone; `ST_INIT` stores nothing and
leaves `gie`; `ST_WRITE_BYTE` stores at the slot `TX.in` names and leaves RX, `TX.out`, the line device and both statuses;
`ST_READ_BYTE` stores nothing and leaves TX, `RX.in`, `tx_status` and the enables. None touches the client or what leaves the machine. -/
def Obligations.TransportCommandsFrame : Prop :=
  ∀ (i : Instr) (s t : State),
    (∃ imm, i = .sysGie imm) ∨ (∃ sel, i = .stInit sel) ∨ (∃ b, i = .stWriteByte b) ∨ i = .stReadByte → exec i s = .next t →
    t.cfg = s.cfg ∧ t.client = s.client ∧ t.inputs.cmds = s.inputs.cmds ∧ t.inputs.wireIn = s.inputs.wireIn ∧
    t.inputs.schedule = s.inputs.schedule ∧ t.outputs.wireOut = s.outputs.wireOut ∧
    t.outputs.extCalls = s.outputs.extCalls ∧ t.ctx.inIrq = s.ctx.inIrq ∧ t.ctx.critSaved = s.ctx.critSaved ∧
    ResponsesMayGrow s t ∧
    ((∀ sel, i ≠ .stInit sel) → FaultsMayGrow s t) ∧
    ((∀ imm, i ≠ .sysGie imm) → t.ctx.gie = s.ctx.gie) ∧
    (∀ imm, i = .sysGie imm → t.xport = s.xport ∧ t.line = s.line ∧ SameRing .rx s t ∧ SameRing .tx s t) ∧
    (∀ sel, i = .stInit sel →
      t.line.rxData = s.line.rxData ∧ t.line.txData = s.line.txData ∧ ∀ r k, t.slot r k = s.slot r k) ∧
    (∀ b, i = .stWriteByte b →
      t.line = s.line ∧ SameRing .rx s t ∧ t.tx.out = s.tx.out ∧ t.tx.initialized = s.tx.initialized ∧
      t.xport = { s.xport with txIe := t.xport.txIe } ∧ ∀ k, k ≠ s.tx.inp → t.slot .tx k = s.slot .tx k) ∧
    (i = .stReadByte →
      t.line = s.line ∧ SameRing .tx s t ∧ t.rx.inp = s.rx.inp ∧ t.rx.initialized = s.rx.initialized ∧
      t.xport = { s.xport with rxStatus := t.xport.rxStatus, rxStatusSet := t.xport.rxStatusSet } ∧
      ∀ k, t.slot .rx k = s.slot .rx k)

/-- The frame of the client's commands (R160, R162, R167): `LA_POLL` consumes from RX and writes the client's buffers, never
`sensitivity` or a register of the transport; `LA_DISPATCH` stores at the slot `TX.in` names, writes `tx_ie`, `cmd_ready` and
`sensitivity`, and leaves RX, `TX.out`, the buffers and both statuses. -/
def Obligations.ClientCommandsFrame : Prop :=
  ∀ (i : Instr) (s t : State), i = .laPoll ∨ i = .laDispatch → exec i s = .next t →
    t.cfg = s.cfg ∧ t.line = s.line ∧ t.ctx = s.ctx ∧ t.inputs.cmds = s.inputs.cmds ∧
    t.inputs.wireIn = s.inputs.wireIn ∧ t.inputs.schedule = s.inputs.schedule ∧
    t.outputs.wireOut = s.outputs.wireOut ∧ FaultsMayGrow s t ∧ ResponsesMayGrow s t ∧
    (i = .laPoll →
      t.xport = s.xport ∧ SameRing .tx s t ∧ t.rx.inp = s.rx.inp ∧ t.rx.initialized = s.rx.initialized ∧
      (∀ k, t.slot .rx k = s.slot .rx k) ∧ t.client.sensitivity = s.client.sensitivity ∧
      t.outputs.extCalls = s.outputs.extCalls ∧
      (s.main.phase ≠ .handoff → t.client.cmdBuf = s.client.cmdBuf ∧
        ∀ k : Fin 8, k.val ≠ s.client.widx → t.client.lineBuf[k.val] = s.client.lineBuf[k.val])) ∧
    (i = .laDispatch →
      SameRing .rx s t ∧ t.tx.out = s.tx.out ∧ t.tx.initialized = s.tx.initialized ∧
      t.xport = { s.xport with txIe := t.xport.txIe } ∧ (∀ k, k ≠ s.tx.inp → t.slot .tx k = s.slot .tx k) ∧
      t.client.lineBuf = s.client.lineBuf ∧ t.client.cmdBuf = s.client.cmdBuf ∧ t.client.widx = s.client.widx)

/-- The frame of the events (R142, R144, R189, R191): MAIN's operation, the client, the baud rate, `rx_ie`, the marks and every register
of the other direction are left as they are; `EV_RX` stores at the slot `RX.in` names, `EV_TX` stores nothing. -/
def Obligations.EventsFrame : Prop :=
  ∀ (i : Instr) (s t : State), i = .evRx ∨ i = .evTx → exec i s = .next t →
    t.cfg = s.cfg ∧ t.main = s.main ∧ t.client = s.client ∧ t.faults = s.faults ∧ t.outputs = s.outputs ∧
    t.inputs.cmds = s.inputs.cmds ∧ t.inputs.wireIn = s.inputs.wireIn ∧ t.inputs.schedule = s.inputs.schedule ∧
    t.ctx.critSaved = s.ctx.critSaved ∧ t.xport.baud = s.xport.baud ∧ t.xport.rxIe = s.xport.rxIe ∧
    t.xport.initialized = s.xport.initialized ∧ t.line.on = s.line.on ∧ t.line.rxData = s.line.rxData ∧
    t.rx.initialized = s.rx.initialized ∧ t.tx.initialized = s.tx.initialized ∧
    (i = .evRx →
      SameRing .tx s t ∧ t.xport.txStatus = s.xport.txStatus ∧ t.xport.txIe = s.xport.txIe ∧
      t.line.txData = s.line.txData ∧ t.line.txReady = s.line.txReady ∧ t.inputs.draws = s.inputs.draws ∧
      ∀ k, k ≠ s.rx.inp → t.slot .rx k = s.slot .rx k) ∧
    (i = .evTx →
      SameRing .rx s t ∧ t.xport.rxStatus = s.xport.rxStatus ∧ t.line.rxPending = s.line.rxPending ∧
      ∀ k, t.slot .tx k = s.slot .tx k)
end

