-- ==== Sys2Proof/Laws/State.lean ====
section
/-! SUPPORT. One lemma per field of State per named update, so that no proof unfolds a record update. -/

namespace Sys2Proof.Machine

@[simp] theorem MainSeq.idle_op : MainSeq.idle.op = none := rfl
@[simp] theorem MainSeq.idle_phase : MainSeq.idle.phase = .idle := rfl
@[simp] theorem MainSeq.idle_byte : MainSeq.idle.byte = 0 := rfl
@[simp] theorem MainSeq.idle_toSend : MainSeq.idle.toSend = [] := rfl

@[simp] theorem goto_cfg (ph : Phase) (s : State) : (goto ph s).cfg = s.cfg := rfl
@[simp] theorem goto_rx (ph : Phase) (s : State) : (goto ph s).rx = s.rx := rfl
@[simp] theorem goto_tx (ph : Phase) (s : State) : (goto ph s).tx = s.tx := rfl
@[simp] theorem goto_xport (ph : Phase) (s : State) : (goto ph s).xport = s.xport := rfl
@[simp] theorem goto_faults (ph : Phase) (s : State) : (goto ph s).faults = s.faults := rfl
@[simp] theorem goto_line (ph : Phase) (s : State) : (goto ph s).line = s.line := rfl
@[simp] theorem goto_ctx (ph : Phase) (s : State) : (goto ph s).ctx = s.ctx := rfl
@[simp] theorem goto_main (ph : Phase) (s : State) : (goto ph s).main = { s.main with phase := ph } := rfl
@[simp] theorem goto_client (ph : Phase) (s : State) : (goto ph s).client = s.client := rfl
@[simp] theorem goto_inputs (ph : Phase) (s : State) : (goto ph s).inputs = s.inputs := rfl
@[simp] theorem goto_outputs (ph : Phase) (s : State) : (goto ph s).outputs = s.outputs := rfl

@[simp] theorem finish_cfg (c : ResultCode) (v : Word) (s : State) : (finish c v s).cfg = s.cfg := rfl
@[simp] theorem finish_rx (c : ResultCode) (v : Word) (s : State) : (finish c v s).rx = s.rx := rfl
@[simp] theorem finish_tx (c : ResultCode) (v : Word) (s : State) : (finish c v s).tx = s.tx := rfl
@[simp] theorem finish_xport (c : ResultCode) (v : Word) (s : State) : (finish c v s).xport = s.xport := rfl
@[simp] theorem finish_faults (c : ResultCode) (v : Word) (s : State) : (finish c v s).faults = s.faults := rfl
@[simp] theorem finish_line (c : ResultCode) (v : Word) (s : State) : (finish c v s).line = s.line := rfl
@[simp] theorem finish_ctx (c : ResultCode) (v : Word) (s : State) : (finish c v s).ctx = s.ctx := rfl
@[simp] theorem finish_main (c : ResultCode) (v : Word) (s : State) : (finish c v s).main = MainSeq.idle := rfl
@[simp] theorem finish_client (c : ResultCode) (v : Word) (s : State) : (finish c v s).client = s.client := rfl
@[simp] theorem finish_inputs (c : ResultCode) (v : Word) (s : State) : (finish c v s).inputs = s.inputs := rfl
@[simp] theorem finish_outputs (c : ResultCode) (v : Word) (s : State) : (finish c v s).outputs = { s.outputs with rsp := s.outputs.rsp ++ [rspWord c v] } := rfl

@[simp] theorem ret_cfg (v : Word) (s : State) : (ret v s).cfg = s.cfg := rfl
@[simp] theorem ret_rx (v : Word) (s : State) : (ret v s).rx = s.rx := rfl
@[simp] theorem ret_tx (v : Word) (s : State) : (ret v s).tx = s.tx := rfl
@[simp] theorem ret_xport (v : Word) (s : State) : (ret v s).xport = s.xport := rfl
@[simp] theorem ret_faults (v : Word) (s : State) : (ret v s).faults = s.faults := rfl
@[simp] theorem ret_line (v : Word) (s : State) : (ret v s).line = s.line := rfl
@[simp] theorem ret_ctx (v : Word) (s : State) : (ret v s).ctx = s.ctx := rfl
@[simp] theorem ret_main (v : Word) (s : State) : (ret v s).main = MainSeq.idle := rfl
@[simp] theorem ret_client (v : Word) (s : State) : (ret v s).client = s.client := rfl
@[simp] theorem ret_inputs (v : Word) (s : State) : (ret v s).inputs = s.inputs := rfl
@[simp] theorem ret_outputs (v : Word) (s : State) : (ret v s).outputs = { s.outputs with rsp := s.outputs.rsp ++ [rspWord .ok v] } := rfl

@[simp] theorem raise_cfg (c : ResultCode) (s : State) : (raise c s).cfg = s.cfg := rfl
@[simp] theorem raise_rx (c : ResultCode) (s : State) : (raise c s).rx = s.rx := rfl
@[simp] theorem raise_tx (c : ResultCode) (s : State) : (raise c s).tx = s.tx := rfl
@[simp] theorem raise_xport (c : ResultCode) (s : State) : (raise c s).xport = s.xport := rfl
@[simp] theorem raise_faults (c : ResultCode) (s : State) : (raise c s).faults = s.faults.record c := rfl
@[simp] theorem raise_line (c : ResultCode) (s : State) : (raise c s).line = s.line := rfl
@[simp] theorem raise_ctx (c : ResultCode) (s : State) : (raise c s).ctx = s.ctx := rfl
@[simp] theorem raise_main (c : ResultCode) (s : State) : (raise c s).main = MainSeq.idle := rfl
@[simp] theorem raise_client (c : ResultCode) (s : State) : (raise c s).client = s.client := rfl
@[simp] theorem raise_inputs (c : ResultCode) (s : State) : (raise c s).inputs = s.inputs := rfl
@[simp] theorem raise_outputs (c : ResultCode) (s : State) : (raise c s).outputs = { s.outputs with rsp := s.outputs.rsp ++ [rspWord c 0] } := rfl

@[simp] theorem accept_cfg (i : Instr) (ph : Phase) (s : State) : (accept i ph s).cfg = s.cfg := rfl
@[simp] theorem accept_rx (i : Instr) (ph : Phase) (s : State) : (accept i ph s).rx = s.rx := rfl
@[simp] theorem accept_tx (i : Instr) (ph : Phase) (s : State) : (accept i ph s).tx = s.tx := rfl
@[simp] theorem accept_xport (i : Instr) (ph : Phase) (s : State) : (accept i ph s).xport = s.xport := rfl
@[simp] theorem accept_faults (i : Instr) (ph : Phase) (s : State) : (accept i ph s).faults = s.faults := rfl
@[simp] theorem accept_line (i : Instr) (ph : Phase) (s : State) : (accept i ph s).line = s.line := rfl
@[simp] theorem accept_ctx (i : Instr) (ph : Phase) (s : State) : (accept i ph s).ctx = s.ctx := rfl
@[simp] theorem accept_main (i : Instr) (ph : Phase) (s : State) : (accept i ph s).main = { op := some i, phase := ph, byte := 0, toSend := [] } := rfl
@[simp] theorem accept_client (i : Instr) (ph : Phase) (s : State) : (accept i ph s).client = s.client := rfl
@[simp] theorem accept_inputs (i : Instr) (ph : Phase) (s : State) : (accept i ph s).inputs = s.inputs := rfl
@[simp] theorem accept_outputs (i : Instr) (ph : Phase) (s : State) : (accept i ph s).outputs = s.outputs := rfl

@[simp] theorem irqEntry_cfg (s : State) : (irqEntry s).cfg = s.cfg := rfl
@[simp] theorem irqEntry_rx (s : State) : (irqEntry s).rx = s.rx := rfl
@[simp] theorem irqEntry_tx (s : State) : (irqEntry s).tx = s.tx := rfl
@[simp] theorem irqEntry_xport (s : State) : (irqEntry s).xport = s.xport := rfl
@[simp] theorem irqEntry_faults (s : State) : (irqEntry s).faults = s.faults := rfl
@[simp] theorem irqEntry_line (s : State) : (irqEntry s).line = s.line := rfl
@[simp] theorem irqEntry_ctx (s : State) : (irqEntry s).ctx = { s.ctx with inIrq := true, gie := false } := rfl
@[simp] theorem irqEntry_main (s : State) : (irqEntry s).main = s.main := rfl
@[simp] theorem irqEntry_client (s : State) : (irqEntry s).client = s.client := rfl
@[simp] theorem irqEntry_inputs (s : State) : (irqEntry s).inputs = s.inputs := rfl
@[simp] theorem irqEntry_outputs (s : State) : (irqEntry s).outputs = s.outputs := rfl

@[simp] theorem irqReturn_cfg (s : State) : (irqReturn s).cfg = s.cfg := rfl
@[simp] theorem irqReturn_rx (s : State) : (irqReturn s).rx = s.rx := rfl
@[simp] theorem irqReturn_tx (s : State) : (irqReturn s).tx = s.tx := rfl
@[simp] theorem irqReturn_xport (s : State) : (irqReturn s).xport = s.xport := rfl
@[simp] theorem irqReturn_faults (s : State) : (irqReturn s).faults = s.faults := rfl
@[simp] theorem irqReturn_line (s : State) : (irqReturn s).line = s.line := rfl
@[simp] theorem irqReturn_ctx (s : State) : (irqReturn s).ctx = { s.ctx with gie := true, inIrq := false } := rfl
@[simp] theorem irqReturn_main (s : State) : (irqReturn s).main = s.main := rfl
@[simp] theorem irqReturn_client (s : State) : (irqReturn s).client = s.client := rfl
@[simp] theorem irqReturn_inputs (s : State) : (irqReturn s).inputs = s.inputs := rfl
@[simp] theorem irqReturn_outputs (s : State) : (irqReturn s).outputs = s.outputs := rfl

@[simp] theorem State.setRxStatus_cfg (v : Status) (s : State) : (s.setRxStatus v).cfg = s.cfg := rfl
@[simp] theorem State.setRxStatus_rx (v : Status) (s : State) : (s.setRxStatus v).rx = s.rx := rfl
@[simp] theorem State.setRxStatus_tx (v : Status) (s : State) : (s.setRxStatus v).tx = s.tx := rfl
@[simp] theorem State.setRxStatus_xport (v : Status) (s : State) : (s.setRxStatus v).xport = { s.xport with rxStatus := v, rxStatusSet := true } := rfl
@[simp] theorem State.setRxStatus_faults (v : Status) (s : State) : (s.setRxStatus v).faults = s.faults := rfl
@[simp] theorem State.setRxStatus_line (v : Status) (s : State) : (s.setRxStatus v).line = s.line := rfl
@[simp] theorem State.setRxStatus_ctx (v : Status) (s : State) : (s.setRxStatus v).ctx = s.ctx := rfl
@[simp] theorem State.setRxStatus_main (v : Status) (s : State) : (s.setRxStatus v).main = s.main := rfl
@[simp] theorem State.setRxStatus_client (v : Status) (s : State) : (s.setRxStatus v).client = s.client := rfl
@[simp] theorem State.setRxStatus_inputs (v : Status) (s : State) : (s.setRxStatus v).inputs = s.inputs := rfl
@[simp] theorem State.setRxStatus_outputs (v : Status) (s : State) : (s.setRxStatus v).outputs = s.outputs := rfl

@[simp] theorem State.setTxStatus_cfg (v : Status) (s : State) : (s.setTxStatus v).cfg = s.cfg := rfl
@[simp] theorem State.setTxStatus_rx (v : Status) (s : State) : (s.setTxStatus v).rx = s.rx := rfl
@[simp] theorem State.setTxStatus_tx (v : Status) (s : State) : (s.setTxStatus v).tx = s.tx := rfl
@[simp] theorem State.setTxStatus_xport (v : Status) (s : State) : (s.setTxStatus v).xport = { s.xport with txStatus := v, txStatusSet := true } := rfl
@[simp] theorem State.setTxStatus_faults (v : Status) (s : State) : (s.setTxStatus v).faults = s.faults := rfl
@[simp] theorem State.setTxStatus_line (v : Status) (s : State) : (s.setTxStatus v).line = s.line := rfl
@[simp] theorem State.setTxStatus_ctx (v : Status) (s : State) : (s.setTxStatus v).ctx = s.ctx := rfl
@[simp] theorem State.setTxStatus_main (v : Status) (s : State) : (s.setTxStatus v).main = s.main := rfl
@[simp] theorem State.setTxStatus_client (v : Status) (s : State) : (s.setTxStatus v).client = s.client := rfl
@[simp] theorem State.setTxStatus_inputs (v : Status) (s : State) : (s.setTxStatus v).inputs = s.inputs := rfl
@[simp] theorem State.setTxStatus_outputs (v : Status) (s : State) : (s.setTxStatus v).outputs = s.outputs := rfl

@[simp] theorem writeTxData_cfg (b : Byte) (s : State) : (writeTxData b s).cfg = s.cfg := rfl
@[simp] theorem writeTxData_rx (b : Byte) (s : State) : (writeTxData b s).rx = s.rx := rfl
@[simp] theorem writeTxData_tx (b : Byte) (s : State) : (writeTxData b s).tx = s.tx := rfl
@[simp] theorem writeTxData_xport (b : Byte) (s : State) : (writeTxData b s).xport = s.xport := rfl
@[simp] theorem writeTxData_faults (b : Byte) (s : State) : (writeTxData b s).faults = s.faults := rfl
@[simp] theorem writeTxData_line (b : Byte) (s : State) : (writeTxData b s).line = { s.line with txData := b, txReady := false } := rfl
@[simp] theorem writeTxData_ctx (b : Byte) (s : State) : (writeTxData b s).ctx = s.ctx := rfl
@[simp] theorem writeTxData_main (b : Byte) (s : State) : (writeTxData b s).main = s.main := rfl
@[simp] theorem writeTxData_client (b : Byte) (s : State) : (writeTxData b s).client = s.client := rfl
@[simp] theorem writeTxData_inputs (b : Byte) (s : State) : (writeTxData b s).inputs = s.inputs := rfl
@[simp] theorem writeTxData_outputs (b : Byte) (s : State) : (writeTxData b s).outputs = s.outputs := rfl

@[simp] theorem sendBytes_cfg (bs : List Byte) (s : State) : (sendBytes bs s).cfg = s.cfg := rfl
@[simp] theorem sendBytes_rx (bs : List Byte) (s : State) : (sendBytes bs s).rx = s.rx := rfl
@[simp] theorem sendBytes_tx (bs : List Byte) (s : State) : (sendBytes bs s).tx = s.tx := rfl
@[simp] theorem sendBytes_xport (bs : List Byte) (s : State) : (sendBytes bs s).xport = s.xport := rfl
@[simp] theorem sendBytes_faults (bs : List Byte) (s : State) : (sendBytes bs s).faults = s.faults := rfl
@[simp] theorem sendBytes_line (bs : List Byte) (s : State) : (sendBytes bs s).line = s.line := rfl
@[simp] theorem sendBytes_ctx (bs : List Byte) (s : State) : (sendBytes bs s).ctx = s.ctx := rfl
@[simp] theorem sendBytes_main (bs : List Byte) (s : State) : (sendBytes bs s).main = { s.main with toSend := bs, phase := if bs = [] then .done else .w1 } := rfl
@[simp] theorem sendBytes_client (bs : List Byte) (s : State) : (sendBytes bs s).client = s.client := rfl
@[simp] theorem sendBytes_inputs (bs : List Byte) (s : State) : (sendBytes bs s).inputs = s.inputs := rfl
@[simp] theorem sendBytes_outputs (bs : List Byte) (s : State) : (sendBytes bs s).outputs = s.outputs := rfl

theorem State.setRing_ring (s : State) (r q : RingId) (v : Ring) :
    (s.setRing r v).ring q = if q = r then v else s.ring q := by
  cases r <;> cases q <;> rfl

@[simp] theorem State.setRing_ring_self (s : State) (r : RingId) (v : Ring) : (s.setRing r v).ring r = v := by
  cases r <;> rfl

@[simp] theorem State.setRing_ring_ne (s : State) {r q : RingId} (v : Ring) (h : q ≠ r) :
    (s.setRing r v).ring q = s.ring q := by
  rw [State.setRing_ring, if_neg h]

@[simp] theorem State.setRing_rx_rx (s : State) (v : Ring) : (s.setRing .rx v).rx = v := rfl
@[simp] theorem State.setRing_rx_tx (s : State) (v : Ring) : (s.setRing .rx v).tx = s.tx := rfl
@[simp] theorem State.setRing_tx_rx (s : State) (v : Ring) : (s.setRing .tx v).rx = s.rx := rfl
@[simp] theorem State.setRing_tx_tx (s : State) (v : Ring) : (s.setRing .tx v).tx = v := rfl
@[simp] theorem State.setRing_cap (s : State) (r q : RingId) (v : Ring) : (s.setRing r v).cap q = s.cap q := by
  cases r <;> cases q <;> rfl
@[simp] theorem State.ring_rx (s : State) : s.ring .rx = s.rx := rfl
@[simp] theorem State.ring_tx (s : State) : s.ring .tx = s.tx := rfl
@[simp] theorem State.setRing_self (s : State) (r : RingId) : s.setRing r (s.ring r) = s := by cases r <;> rfl
@[simp] theorem State.setRing_setRing (s : State) (r : RingId) (v w : Ring) : (s.setRing r v).setRing r w = s.setRing r w := by
  cases r <;> rfl
@[simp] theorem State.setRing_cfg (s : State) (r : RingId) (v : Ring) : (s.setRing r v).cfg = s.cfg := by cases r <;> rfl
@[simp] theorem State.setRing_xport (s : State) (r : RingId) (v : Ring) : (s.setRing r v).xport = s.xport := by cases r <;> rfl
@[simp] theorem State.setRing_faults (s : State) (r : RingId) (v : Ring) : (s.setRing r v).faults = s.faults := by cases r <;> rfl
@[simp] theorem State.setRing_line (s : State) (r : RingId) (v : Ring) : (s.setRing r v).line = s.line := by cases r <;> rfl
@[simp] theorem State.setRing_ctx (s : State) (r : RingId) (v : Ring) : (s.setRing r v).ctx = s.ctx := by cases r <;> rfl
@[simp] theorem State.setRing_main (s : State) (r : RingId) (v : Ring) : (s.setRing r v).main = s.main := by cases r <;> rfl
@[simp] theorem State.setRing_client (s : State) (r : RingId) (v : Ring) : (s.setRing r v).client = s.client := by cases r <;> rfl
@[simp] theorem State.setRing_inputs (s : State) (r : RingId) (v : Ring) : (s.setRing r v).inputs = s.inputs := by cases r <;> rfl
@[simp] theorem State.setRing_outputs (s : State) (r : RingId) (v : Ring) : (s.setRing r v).outputs = s.outputs := by cases r <;> rfl

@[simp] theorem advanceIn_cfg (r : RingId) (s : State) : (advanceIn r s).cfg = s.cfg := by cases r <;> rfl
@[simp] theorem advanceIn_xport (r : RingId) (s : State) : (advanceIn r s).xport = s.xport := by cases r <;> rfl
@[simp] theorem advanceIn_faults (r : RingId) (s : State) : (advanceIn r s).faults = s.faults := by cases r <;> rfl
@[simp] theorem advanceIn_line (r : RingId) (s : State) : (advanceIn r s).line = s.line := by cases r <;> rfl
@[simp] theorem advanceIn_ctx (r : RingId) (s : State) : (advanceIn r s).ctx = s.ctx := by cases r <;> rfl
@[simp] theorem advanceIn_main (r : RingId) (s : State) : (advanceIn r s).main = s.main := by cases r <;> rfl
@[simp] theorem advanceIn_client (r : RingId) (s : State) : (advanceIn r s).client = s.client := by cases r <;> rfl
@[simp] theorem advanceIn_inputs (r : RingId) (s : State) : (advanceIn r s).inputs = s.inputs := by cases r <;> rfl
@[simp] theorem advanceIn_outputs (r : RingId) (s : State) : (advanceIn r s).outputs = s.outputs := by cases r <;> rfl

@[simp] theorem countUp_cfg (r : RingId) (s : State) : (countUp r s).cfg = s.cfg := by cases r <;> rfl
@[simp] theorem countUp_xport (r : RingId) (s : State) : (countUp r s).xport = s.xport := by cases r <;> rfl
@[simp] theorem countUp_faults (r : RingId) (s : State) : (countUp r s).faults = s.faults := by cases r <;> rfl
@[simp] theorem countUp_line (r : RingId) (s : State) : (countUp r s).line = s.line := by cases r <;> rfl
@[simp] theorem countUp_ctx (r : RingId) (s : State) : (countUp r s).ctx = s.ctx := by cases r <;> rfl
@[simp] theorem countUp_main (r : RingId) (s : State) : (countUp r s).main = s.main := by cases r <;> rfl
@[simp] theorem countUp_client (r : RingId) (s : State) : (countUp r s).client = s.client := by cases r <;> rfl
@[simp] theorem countUp_inputs (r : RingId) (s : State) : (countUp r s).inputs = s.inputs := by cases r <;> rfl
@[simp] theorem countUp_outputs (r : RingId) (s : State) : (countUp r s).outputs = s.outputs := by cases r <;> rfl

@[simp] theorem advanceOut_cfg (r : RingId) (s : State) : (advanceOut r s).cfg = s.cfg := by cases r <;> rfl
@[simp] theorem advanceOut_xport (r : RingId) (s : State) : (advanceOut r s).xport = s.xport := by cases r <;> rfl
@[simp] theorem advanceOut_faults (r : RingId) (s : State) : (advanceOut r s).faults = s.faults := by cases r <;> rfl
@[simp] theorem advanceOut_line (r : RingId) (s : State) : (advanceOut r s).line = s.line := by cases r <;> rfl
@[simp] theorem advanceOut_ctx (r : RingId) (s : State) : (advanceOut r s).ctx = s.ctx := by cases r <;> rfl
@[simp] theorem advanceOut_main (r : RingId) (s : State) : (advanceOut r s).main = s.main := by cases r <;> rfl
@[simp] theorem advanceOut_client (r : RingId) (s : State) : (advanceOut r s).client = s.client := by cases r <;> rfl
@[simp] theorem advanceOut_inputs (r : RingId) (s : State) : (advanceOut r s).inputs = s.inputs := by cases r <;> rfl
@[simp] theorem advanceOut_outputs (r : RingId) (s : State) : (advanceOut r s).outputs = s.outputs := by cases r <;> rfl

@[simp] theorem countDown_cfg (r : RingId) (s : State) : (countDown r s).cfg = s.cfg := by cases r <;> rfl
@[simp] theorem countDown_xport (r : RingId) (s : State) : (countDown r s).xport = s.xport := by cases r <;> rfl
@[simp] theorem countDown_faults (r : RingId) (s : State) : (countDown r s).faults = s.faults := by cases r <;> rfl
@[simp] theorem countDown_line (r : RingId) (s : State) : (countDown r s).line = s.line := by cases r <;> rfl
@[simp] theorem countDown_ctx (r : RingId) (s : State) : (countDown r s).ctx = s.ctx := by cases r <;> rfl
@[simp] theorem countDown_main (r : RingId) (s : State) : (countDown r s).main = s.main := by cases r <;> rfl
@[simp] theorem countDown_client (r : RingId) (s : State) : (countDown r s).client = s.client := by cases r <;> rfl
@[simp] theorem countDown_inputs (r : RingId) (s : State) : (countDown r s).inputs = s.inputs := by cases r <;> rfl
@[simp] theorem countDown_outputs (r : RingId) (s : State) : (countDown r s).outputs = s.outputs := by cases r <;> rfl

@[simp] theorem initInStep_cfg (r : RingId) (s : State) : (initInStep r s).cfg = s.cfg := by cases r <;> rfl
@[simp] theorem initInStep_xport (r : RingId) (s : State) : (initInStep r s).xport = s.xport := by cases r <;> rfl
@[simp] theorem initInStep_faults (r : RingId) (s : State) : (initInStep r s).faults = s.faults := by cases r <;> rfl
@[simp] theorem initInStep_line (r : RingId) (s : State) : (initInStep r s).line = s.line := by cases r <;> rfl
@[simp] theorem initInStep_ctx (r : RingId) (s : State) : (initInStep r s).ctx = s.ctx := by cases r <;> rfl
@[simp] theorem initInStep_main (r : RingId) (s : State) : (initInStep r s).main = s.main := by cases r <;> rfl
@[simp] theorem initInStep_client (r : RingId) (s : State) : (initInStep r s).client = s.client := by cases r <;> rfl
@[simp] theorem initInStep_inputs (r : RingId) (s : State) : (initInStep r s).inputs = s.inputs := by cases r <;> rfl
@[simp] theorem initInStep_outputs (r : RingId) (s : State) : (initInStep r s).outputs = s.outputs := by cases r <;> rfl

@[simp] theorem initOutStep_cfg (r : RingId) (s : State) : (initOutStep r s).cfg = s.cfg := by cases r <;> rfl
@[simp] theorem initOutStep_xport (r : RingId) (s : State) : (initOutStep r s).xport = s.xport := by cases r <;> rfl
@[simp] theorem initOutStep_faults (r : RingId) (s : State) : (initOutStep r s).faults = s.faults := by cases r <;> rfl
@[simp] theorem initOutStep_line (r : RingId) (s : State) : (initOutStep r s).line = s.line := by cases r <;> rfl
@[simp] theorem initOutStep_ctx (r : RingId) (s : State) : (initOutStep r s).ctx = s.ctx := by cases r <;> rfl
@[simp] theorem initOutStep_main (r : RingId) (s : State) : (initOutStep r s).main = s.main := by cases r <;> rfl
@[simp] theorem initOutStep_client (r : RingId) (s : State) : (initOutStep r s).client = s.client := by cases r <;> rfl
@[simp] theorem initOutStep_inputs (r : RingId) (s : State) : (initOutStep r s).inputs = s.inputs := by cases r <;> rfl
@[simp] theorem initOutStep_outputs (r : RingId) (s : State) : (initOutStep r s).outputs = s.outputs := by cases r <;> rfl

@[simp] theorem initMarkStep_cfg (r : RingId) (s : State) : (initMarkStep r s).cfg = s.cfg := by cases r <;> rfl
@[simp] theorem initMarkStep_xport (r : RingId) (s : State) : (initMarkStep r s).xport = s.xport := by cases r <;> rfl
@[simp] theorem initMarkStep_faults (r : RingId) (s : State) : (initMarkStep r s).faults = s.faults := by cases r <;> rfl
@[simp] theorem initMarkStep_line (r : RingId) (s : State) : (initMarkStep r s).line = s.line := by cases r <;> rfl
@[simp] theorem initMarkStep_ctx (r : RingId) (s : State) : (initMarkStep r s).ctx = s.ctx := by cases r <;> rfl
@[simp] theorem initMarkStep_main (r : RingId) (s : State) : (initMarkStep r s).main = s.main := by cases r <;> rfl
@[simp] theorem initMarkStep_client (r : RingId) (s : State) : (initMarkStep r s).client = s.client := by cases r <;> rfl
@[simp] theorem initMarkStep_inputs (r : RingId) (s : State) : (initMarkStep r s).inputs = s.inputs := by cases r <;> rfl
@[simp] theorem initMarkStep_outputs (r : RingId) (s : State) : (initMarkStep r s).outputs = s.outputs := by cases r <;> rfl

@[simp] theorem advanceIn_ring_self (r : RingId) (s : State) : (advanceIn r s).ring r = { s.ring r with inp := wrap (s.cap r) (s.ring r).inp } := by cases r <;> rfl
@[simp] theorem advanceIn_ring_ne {r q : RingId} (s : State) (h : q ≠ r) : (advanceIn r s).ring q = s.ring q := by
  cases r <;> cases q <;> first | rfl | exact absurd rfl h
@[simp] theorem countUp_ring_self (r : RingId) (s : State) : (countUp r s).ring r = { s.ring r with count := (s.ring r).count + 1 } := by cases r <;> rfl
@[simp] theorem countUp_ring_ne {r q : RingId} (s : State) (h : q ≠ r) : (countUp r s).ring q = s.ring q := by
  cases r <;> cases q <;> first | rfl | exact absurd rfl h
@[simp] theorem advanceOut_ring_self (r : RingId) (s : State) : (advanceOut r s).ring r = { s.ring r with out := wrap (s.cap r) (s.ring r).out } := by cases r <;> rfl
@[simp] theorem advanceOut_ring_ne {r q : RingId} (s : State) (h : q ≠ r) : (advanceOut r s).ring q = s.ring q := by
  cases r <;> cases q <;> first | rfl | exact absurd rfl h
@[simp] theorem countDown_ring_self (r : RingId) (s : State) : (countDown r s).ring r = { s.ring r with count := (s.ring r).count - 1 } := by cases r <;> rfl
@[simp] theorem countDown_ring_ne {r q : RingId} (s : State) (h : q ≠ r) : (countDown r s).ring q = s.ring q := by
  cases r <;> cases q <;> first | rfl | exact absurd rfl h
@[simp] theorem initInStep_ring_self (r : RingId) (s : State) : (initInStep r s).ring r = { s.ring r with inp := 0 } := by cases r <;> rfl
@[simp] theorem initInStep_ring_ne {r q : RingId} (s : State) (h : q ≠ r) : (initInStep r s).ring q = s.ring q := by
  cases r <;> cases q <;> first | rfl | exact absurd rfl h
@[simp] theorem initOutStep_ring_self (r : RingId) (s : State) : (initOutStep r s).ring r = { s.ring r with out := 0 } := by cases r <;> rfl
@[simp] theorem initOutStep_ring_ne {r q : RingId} (s : State) (h : q ≠ r) : (initOutStep r s).ring q = s.ring q := by
  cases r <;> cases q <;> first | rfl | exact absurd rfl h
@[simp] theorem initMarkStep_ring_self (r : RingId) (s : State) : (initMarkStep r s).ring r = { s.ring r with initialized := true } := by cases r <;> rfl
@[simp] theorem initMarkStep_ring_ne {r q : RingId} (s : State) (h : q ≠ r) : (initMarkStep r s).ring q = s.ring q := by
  cases r <;> cases q <;> first | rfl | exact absurd rfl h

end Sys2Proof.Machine
end

