-- ==== Sys2Proof/Laws/Mem.lean ====
section
/-! SUPPORT. The laws of a ring's storage: reading after writing, and that a write keeps the canonical form. -/

namespace Sys2Proof.Machine

@[simp] theorem Mem.read_nil (i : Nat) : Mem.read [] i = none := rfl

/-- Reading a slot after a write gives the byte written there, and elsewhere what was there before. -/
theorem Mem.read_write (m : Mem) (i j : Nat) (b : Byte) :
    Mem.read (Mem.write m i b) j = if j = i then some b else Mem.read m j := by
  induction m with
  | nil => simp [Mem.write, Mem.read, eq_comm]
  | cons c m ih =>
    obtain ⟨k, v⟩ := c
    unfold Mem.write
    split
    · simp [Mem.read, eq_comm]
    · split
      · subst k
        by_cases h : j = i
        · simp [Mem.read, h]
        · simp [Mem.read, h, Ne.symm h]
      · rename_i hne
        simp only [Mem.read, ih]
        by_cases h : k = j
        · subst h; simp [Ne.symm hne]
        · simp [h]

@[simp] theorem Mem.read_write_self (m : Mem) (i : Nat) (b : Byte) : Mem.read (Mem.write m i b) i = some b := by
  simp [Mem.read_write]

@[simp] theorem Mem.read_write_ne (m : Mem) {i j : Nat} (b : Byte) (h : j ≠ i) :
    Mem.read (Mem.write m i b) j = Mem.read m j := by
  simp [Mem.read_write, h]

/-- The indices a write lists: the one written and those listed before. -/
theorem Mem.mem_write {m : Mem} {i : Nat} {b : Byte} {c : Host.Cell} (h : c ∈ Mem.write m i b) :
    c = (i, b) ∨ c ∈ m := by
  induction m with
  | nil => simpa [Mem.write] using h
  | cons d m ih =>
    obtain ⟨k, v⟩ := d
    unfold Mem.write at h
    split at h
    · simpa using h
    · split at h
      · simp only [List.mem_cons] at h ⊢; tauto
      · simp only [List.mem_cons] at h ⊢; tauto

/-- A write keeps the canonical form. -/
theorem Mem.wf_write {m : Mem} (i : Nat) (b : Byte) (h : Mem.wf m) : Mem.wf (Mem.write m i b) := by
  induction m with
  | nil => simp [Mem.write, Mem.wf]
  | cons d m ih =>
    obtain ⟨k, v⟩ := d
    have hk := (List.pairwise_cons.mp h).1
    have hm := (List.pairwise_cons.mp h).2
    unfold Mem.write
    split
    · rename_i hlt
      refine List.pairwise_cons.mpr ⟨?_, h⟩
      intro c hc
      rcases List.mem_cons.mp hc with rfl | hc
      · exact hlt
      · exact Nat.lt_trans hlt (hk c hc)
    · split
      · subst k; exact List.pairwise_cons.mpr ⟨fun c hc => hk c hc, hm⟩
      · refine List.pairwise_cons.mpr ⟨?_, ih hm⟩
        intro c hc
        rcases Mem.mem_write hc with rfl | hc
        · simp only; omega
        · exact hk c hc

/-- The storage of a ring after power-on reset is canonical. -/
theorem Mem.wf_reset : Mem.wf Ring.reset.storage := List.Pairwise.nil

/-- Advancing a cursor keeps it a slot index (R63). -/
theorem wrap_lt {n c : Nat} (h : c < n) : wrap n c < n := by
  unfold wrap; split <;> omega

/-- Advancing a cursor is adding one modulo the capacity (R63). -/
theorem wrap_eq_mod {n c : Nat} (h : c < n) : wrap n c = (c + 1) % n := by
  unfold wrap
  split
  · rename_i h'; rw [h', Nat.mod_self]
  · rw [Nat.mod_eq_of_lt]; omega

end Sys2Proof.Machine
end

