-- ==== Sys2Proof/Laws/Ops.lean ====
section
/-! SUPPORT. One lemma per shared operation that says once what it does, and the inversion lemmas of a command's step, a handler and
the machine's step. -/

namespace Sys2Proof.Machine

/-- The empty test is `count = 0` (R107). -/
@[simp] theorem isEmptyCount_iff (c : Word) : isEmptyCount c.toNat = true ↔ c = 0 := by
  simp [isEmptyCount, BitVec.toNat_eq]

@[simp] theorem isEmptyCount_zero : isEmptyCount 0 = true := rfl

/-- The full test is `count = N` (R108). -/
@[simp] theorem isFullCount_iff (cap n : Nat) : isFullCount cap n = true ↔ n = cap := by
  simp [isFullCount]

/-- A critical section leaves the interrupt state as it found it (R148). -/
@[simp] theorem exitCrit_enterCrit (s : State) : exitCrit (enterCrit s) = s := rfl

/-- An atomic read of `count` gives the count and changes nothing (R69). -/
@[simp] theorem atomicCount_eq (r : RingId) (s : State) : atomicCount r s = ((s.ring r).count.toNat, s) := by
  cases r <;> rfl

/-- The increment in a critical section is the increment (R69). -/
@[simp] theorem atomically_countUp (r : RingId) (s : State) : atomically (countUp r) s = countUp r s := by
  cases r <;> rfl

/-- The decrement in a critical section is the decrement (R69). -/
@[simp] theorem atomically_countDown (r : RingId) (s : State) : atomically (countDown r) s = countDown r s := by
  cases r <;> rfl

/-- `atomic { r.count <- 0 }` writes `count` alone (R101). -/
@[simp] theorem initCountStep_eq (r : RingId) (s : State) :
    initCountStep r s = s.setRing r { s.ring r with count := 0 } := by
  cases r <;> rfl

/-- The handoff copies and clears (R165). -/
@[simp] theorem handoff_eq (s : State) :
    handoff s = { s with client.cmdBuf := s.client.lineBuf, client.lineBuf := Vector.replicate 8 0 } := rfl

/-- A slot write that succeeds (R102 I1). -/
theorem slotWrite_ok {r : RingId} {b : Byte} {s : State} (h : (s.ring r).inp < s.cap r) :
    slotWrite r b s =
      .ok (s.setRing r { s.ring r with storage := Mem.write (s.ring r).storage (s.ring r).inp b }) := by
  simp [slotWrite, h]

/-- What a slot write can do. -/
theorem slotWrite_inv {r : RingId} {b : Byte} {s t : State} (h : slotWrite r b s = .ok t) :
    (s.ring r).inp < s.cap r ∧
      t = s.setRing r { s.ring r with storage := Mem.write (s.ring r).storage (s.ring r).inp b } := by
  unfold slotWrite at h
  split at h
  · exact ⟨‹_›, by cases h; rfl⟩
  · cases h

/-- A read of a written slot gives its byte and changes nothing (R104 X1). -/
theorem slotRead_written {r : RingId} {s : State} {b : Byte} (h : (s.ring r).out < s.cap r)
    (hb : s.slot r (s.ring r).out = some b) : slotRead r s = .ok (b, s) := by
  simp [slotRead, h, hb]

/-- What a slot read can do: give the byte of a written slot, or draw a free one. -/
theorem slotRead_inv {r : RingId} {s : State} {p : Byte × State} (h : slotRead r s = .ok p) :
    (s.ring r).out < s.cap r ∧
      ((s.slot r (s.ring r).out = some p.1 ∧ p.2 = s) ∨
        (s.slot r (s.ring r).out = none ∧ p.1 = Config.freeByte s.inputs.draws ∧
          p.2 = { s with inputs.draws := s.inputs.draws + 1 })) := by
  unfold slotRead at h
  split at h
  · refine ⟨‹_›, ?_⟩
    split at h
    · rename_i hb; cases h; exact .inl ⟨hb, rfl⟩
    · rename_i hb; cases h; exact .inr ⟨hb, rfl, rfl⟩
  · cases h

/-- I1 of MAIN. -/
theorem stepI1_ok {r : RingId} {b : Byte} {s : State} (h : (s.ring r).inp < s.cap r) :
    stepI1 r b s =
      .next (goto .i2 (s.setRing r { s.ring r with storage := Mem.write (s.ring r).storage (s.ring r).inp b })) := by
  simp [stepI1, slotWrite_ok h]

theorem stepI1_inv {r : RingId} {b : Byte} {s t : State} (h : stepI1 r b s = .next t) :
    (s.ring r).inp < s.cap r ∧
      t = goto .i2 (s.setRing r { s.ring r with storage := Mem.write (s.ring r).storage (s.ring r).inp b }) := by
  unfold stepI1 at h
  split at h
  · rename_i u hu
    obtain ⟨hi, rfl⟩ := slotWrite_inv hu
    cases h; exact ⟨hi, rfl⟩
  · cases h

/-- X1 of MAIN on a written slot. -/
theorem stepX1_ok {r : RingId} {s : State} {b : Byte} (h : (s.ring r).out < s.cap r)
    (hb : s.slot r (s.ring r).out = some b) :
    stepX1 r s = .next { s with main.byte := b, main.phase := .x2 } := by
  simp [stepX1, slotRead_written h hb]

theorem stepX1_inv {r : RingId} {s t : State} (h : stepX1 r s = .next t) :
    (s.ring r).out < s.cap r ∧
      ∃ b d, t = { s with main.byte := b, main.phase := .x2, inputs.draws := d } ∧
        ((s.slot r (s.ring r).out = some b ∧ d = s.inputs.draws) ∨
          (s.slot r (s.ring r).out = none ∧ b = Config.freeByte s.inputs.draws ∧ d = s.inputs.draws + 1)) := by
  unfold stepX1 at h
  split at h
  · rename_i b u hu
    obtain ⟨ho, hcase⟩ := slotRead_inv hu
    cases h
    rcases hcase with ⟨hb, rfl⟩ | ⟨hb, hb', rfl⟩
    · exact ⟨ho, b, _, rfl, .inl ⟨hb, rfl⟩⟩
    · exact ⟨ho, b, _, rfl, .inr ⟨hb, hb', rfl⟩⟩
  · cases h

/-- MAIN idle and a check fails: the fault is answered (R86, R183). -/
theorem runCommand_refused {i : Instr} {p : Phase} {m : State → Result} {s : State} {c : ResultCode}
    (h : s.main.op = none) (hc : precheck i s = some c) : runCommand i p m s = .next (raise c s) := by
  simp [runCommand, h, hc]

/-- MAIN idle and the checks pass: the command is accepted (R46). -/
theorem runCommand_accepted {i : Instr} {p : Phase} {m : State → Result} {s : State}
    (h : s.main.op = none) (hc : precheck i s = none) : runCommand i p m s = .next (accept i p s) := by
  simp [runCommand, h, hc]

/-- The command is in progress: its micro-step is taken (R46). -/
theorem runCommand_running {i : Instr} {p : Phase} {m : State → Result} {s : State}
    (h : s.main.op = some i) (hp : Instr.hasPhase i s.main.phase = true) : runCommand i p m s = m s := by
  simp [runCommand, h, hp]

/-- Another operation is in progress: the port does not accept (D36). -/
theorem runCommand_busy {i j : Instr} {p : Phase} {m : State → Result} {s : State}
    (h : s.main.op = some j) (hj : j ≠ i) : runCommand i p m s = .next s := by
  simp [runCommand, h, hj]

/-- All that a step of a command can do when it answers a next state. -/
theorem runCommand_inv {i : Instr} {p : Phase} {m : State → Result} {s t : State} (h : runCommand i p m s = .next t) :
    (s.main.op = none ∧ ∃ c, precheck i s = some c ∧ t = raise c s) ∨
    (s.main.op = none ∧ precheck i s = none ∧ t = accept i p s) ∨
    (s.main.op = some i ∧ Instr.hasPhase i s.main.phase = true ∧ m s = .next t) ∨
    (∃ j, s.main.op = some j ∧ j ≠ i ∧ t = s) := by
  unfold runCommand at h
  split at h
  · rename_i hop
    split at h
    · rename_i c hc; cases h; exact .inl ⟨hop, c, hc, rfl⟩
    · rename_i hc; cases h; exact .inr (.inl ⟨hop, hc, rfl⟩)
  · rename_i j hop
    split at h
    · rename_i hj; subst hj
      split at h
      · rename_i hp; exact .inr (.inr (.inl ⟨hop, hp, h⟩))
      · cases h
    · rename_i hj; cases h; exact .inr (.inr (.inr ⟨j, hop, hj, rfl⟩))

/-- All that a handler's step can do when it answers a next state (R140). -/
theorem runHandler_inv {v : EventVector} {body : State → Except Fault State} {s t : State}
    (h : runHandler v body s = .next t) :
    (s.canStart v = false ∧ t = s) ∨
    (s.canStart v = true ∧ ∃ u, body (irqEntry s) = .ok u ∧ t = irqReturn u) := by
  unfold runHandler at h
  split at h
  · rename_i hc
    split at h
    · rename_i u hu; cases h; exact .inr ⟨hc, u, hu, rfl⟩
    · cases h
  · rename_i hc; cases h; exact .inl ⟨by simpa using hc, rfl⟩

/-- All that the receive event's body can do (R142). -/
theorem evRxBody_inv {s t : State} (h : evRxBody s = .ok t) :
    ((s.rx.count.toNat = s.cap .rx) ∧ t = State.setRxStatus { s with line.rxPending := false } .bufferFull) ∨
    (s.rx.count.toNat ≠ s.cap .rx ∧ s.rx.inp < s.cap .rx ∧
      t = State.setRxStatus
        { s with
          line.rxPending := false
          rx.storage := Mem.write s.rx.storage s.rx.inp s.line.rxData
          rx.inp := wrap (s.cap .rx) s.rx.inp
          rx.count := s.rx.count + 1 } .dataPending) := by
  unfold evRxBody at h
  simp only at h
  split at h
  · rename_i hf
    cases h
    exact .inl ⟨by simpa [isFullCount, readRxData, State.cap] using hf, rfl⟩
  · rename_i hf
    split at h
    · rename_i u hu
      obtain ⟨hi, rfl⟩ := slotWrite_inv hu
      cases h
      exact .inr ⟨by simpa [isFullCount, readRxData, State.cap] using hf, hi, rfl⟩
    · cases h

/-- All that the transmit-ready event's body can do (R144): the free byte of an unwritten slot is the last case. -/
theorem evTxBody_inv {s t : State} (h : evTxBody s = .ok t) :
    (s.tx.count = 0 ∧ t = State.setTxStatus { s with xport.txIe := false } .idleEmpty) ∨
    (s.tx.count ≠ 0 ∧ s.tx.out < s.cap .tx ∧ ∃ b d,
      t = State.setTxStatus
        { s with
          tx.out := wrap (s.cap .tx) s.tx.out
          tx.count := s.tx.count - 1
          line.txData := b
          line.txReady := false
          inputs.draws := d } .transmitting ∧
      ((s.slot .tx s.tx.out = some b ∧ d = s.inputs.draws) ∨
        (s.slot .tx s.tx.out = none ∧ b = Config.freeByte s.inputs.draws ∧ d = s.inputs.draws + 1))) := by
  have hz : isEmptyCount (s.ring .tx).count.toNat = true ↔ s.tx.count = 0 := isEmptyCount_iff _
  unfold evTxBody at h
  split at h
  · rename_i he; cases h; exact .inl ⟨hz.mp he, rfl⟩
  · rename_i he
    split at h
    · rename_i b u hu
      obtain ⟨ho, hcase⟩ := slotRead_inv hu
      cases h
      refine .inr ⟨fun hc => he (hz.mpr hc), ho, b, u.inputs.draws, ?_, ?_⟩
      · rcases hcase with ⟨_, rfl⟩ | ⟨_, _, rfl⟩ <;> rfl
      · rcases hcase with ⟨hb, rfl⟩ | ⟨hb, hb', rfl⟩
        · exact .inl ⟨hb, rfl⟩
        · exact .inr ⟨hb, hb', rfl⟩
    · cases h

/-- Taking the next turn writes the schedule and the draw counter alone. -/
theorem nextAgent_inputs (s : State) :
    ∃ sch d, (nextAgent s).2 = { s with inputs.schedule := sch, inputs.draws := d } := by
  unfold nextAgent
  split
  · exact ⟨_, s.inputs.draws, rfl⟩
  · exact ⟨s.inputs.schedule, _, rfl⟩

/-- All that a step of MAIN can do when it answers a next state (R46, R80(a)). -/
theorem mainStep_inv {s t : State} (h : mainStep s = .next t) :
    (t = s) ∨
    (s.ctx.inIrq = false ∧ ∃ i, s.main.op = some i ∧ exec i s = .next t) ∨
    (s.ctx.inIrq = false ∧ s.main.op = none ∧ ∃ w rest, s.inputs.cmds = w :: rest ∧
      ((∃ i, decodeCommand w = .ok i ∧ exec i { s with inputs.cmds := rest } = .next t) ∨
        (∃ e, decodeCommand w = .error e ∧ t = rejectWord { s with inputs.cmds := rest }))) := by
  unfold mainStep at h
  split at h
  · cases h; exact .inl rfl
  · rename_i hirq
    have hirq : s.ctx.inIrq = false := by simpa using hirq
    split at h
    · rename_i i hop; exact .inr (.inl ⟨hirq, i, hop, h⟩)
    · rename_i hop
      split at h
      · cases h; exact .inl rfl
      · rename_i w rest hc
        split at h
        · rename_i i hd; exact .inr (.inr ⟨hirq, hop, w, rest, hc, .inl ⟨i, hd, h⟩⟩)
        · rename_i e hd; cases h; exact .inr (.inr ⟨hirq, hop, w, rest, hc, .inr ⟨e, hd, rfl⟩⟩)

/-- All that a step of the machine can do: the step of one of the four agents (R9, R10). -/
theorem step_inv {s t : State} (h : step s = .next t) :
    ∃ sch d, let u : State := { s with inputs.schedule := sch, inputs.draws := d }
      mainStep u = .next t ∨ exec .evRx u = .next t ∨ exec .evTx u = .next t ∨ t = arrive u ∨ t = take u := by
  obtain ⟨sch, d, hu⟩ := nextAgent_inputs s
  refine ⟨sch, d, ?_⟩
  unfold step machineStep at h
  rw [hu] at h
  unfold agentStep at h
  split at h
  · exact .inl h
  · exact .inr (.inl h)
  · exact .inr (.inr (.inl h))
  · cases h; exact .inr (.inr (.inr (.inl rfl)))
  · cases h; exact .inr (.inr (.inr (.inr rfl)))

/-- The trigger of the receive event, in the registers (R140, R141, R189). -/
theorem canStart_rx_iff (s : State) :
    s.canStart .rx = true ↔
      s.ctx.inIrq = false ∧ s.ctx.gie = true ∧ s.xport.rxIe = true ∧ s.line.rxPending = true ∧
        ¬ (s.cfg.irqOrder = .txFirst ∧ s.xport.txIe = true ∧ s.line.txReady = true) := by
  simp [State.canStart, State.mustWait, State.irqLine, and_assoc, imp_iff_not_or]

/-- The trigger of the transmit-ready event, in the registers (R140, R143, R189). -/
theorem canStart_tx_iff (s : State) :
    s.canStart .tx = true ↔
      s.ctx.inIrq = false ∧ s.ctx.gie = true ∧ s.xport.txIe = true ∧ s.line.txReady = true ∧
        ¬ (s.cfg.irqOrder = .rxFirst ∧ s.xport.rxIe = true ∧ s.line.rxPending = true) := by
  simp [State.canStart, State.mustWait, State.irqLine, and_assoc, imp_iff_not_or]

/-- What taking a fault does to the state (R183, R188, R193). -/
theorem raise_eq (c : ResultCode) (s : State) :
    raise c s =
      { s with
        main := MainSeq.idle
        faults := s.faults.record c
        outputs.rsp := s.outputs.rsp ++ [rspWord c 0] } := rfl

/-- Executing a command with MAIN idle: the answer of the checks, or the acceptance (R46, R86; log 3). -/
theorem exec_idle {i : Instr} {s : State} (hi : i.isCommand = true) (ho : s.main.op = none) :
    exec i s = .next (match precheck i s with | some c => raise c s | none => accept i (firstPhase i) s) := by
  have run {j : Instr} {ph : Phase} (micro : State → Result) :
      runCommand j ph micro s = .next (match precheck j s with | some c => raise c s | none => accept j ph s) := by
    simp only [runCommand, ho]
    cases precheck j s <;> rfl
  cases i with
  | evRx => cases hi
  | evTx => cases hi
  | reservedD x => exact run fun _ => .fault .strayPhase
  | _ => exact run _

end Sys2Proof.Machine
end

