-- ==== Sys2Proof/Laws/PerInstr.lean ====
section
/-! SUPPORT. The family of statements made once per instruction. `Encoding`: the code of a well-formed instruction lies in its own
row of the opcode table, that is, it agrees with the row's match value under the row's mask (R84, R88). -/

namespace Sys2Proof.Laws.Encoding

/-- The mask and match value of an instruction's row of spec/opcode_table.json. The reserved word's row fixes only the opcode. -/
def row : Instr → Nat × Nat
  | .rbInit _ => (0xF7FF, 0x0000)
  | .rbInsert _ _ => (0xF700, 0x1000)
  | .rbRemove _ => (0xF7FF, 0x2000)
  | .rbCount _ => (0xF7FF, 0x3000)
  | .rbIsempty _ => (0xF7FF, 0x4000)
  | .rbIsfull _ => (0xF7FF, 0x5000)
  | .rbFlush _ => (0xF7FF, 0x6000)
  | .sysGie _ => (0xFFFE, 0x7000)
  | .stInit _ => (0xFF00, 0x8000)
  | .stWriteByte _ => (0xFF00, 0x9000)
  | .stReadByte => (0xFFFF, 0xA000)
  | .stAvail => (0xFFFF, 0xB000)
  | .stWaitTc => (0xFFFF, 0xC000)
  | .reservedD _ => (0xF000, 0xD000)
  | .laPoll => (0xFFFF, 0xE000)
  | .laDispatch => (0xFFFF, 0xF000)
  | .evRx => (1, 0)
  | .evTx => (1, 1)

/-- Does the code agree with `pattern` on the bits of `mask`. -/
def fits (mask pattern : Nat) : Code → Bool
  | .command w => w &&& BitVec.ofNat 16 mask == BitVec.ofNat 16 pattern
  | .vector v => v &&& BitVec.ofNat 1 mask == BitVec.ofNat 1 pattern

/-- The code of the instruction, if it is well-formed, lies in its own row. -/
def Statement (i : Instr) : Prop := i.wf = true → fits (row i).1 (row i).2 (encode i) = true

/-- A reserved word keeps its opcode. -/
theorem reserved_fits (x : BitVec 12) : ((0xD : BitVec 4) ++ x) &&& 0xF000#16 = 0xD000#16 := by
  apply BitVec.eq_of_getLsbD_eq
  intro i hi
  rw [BitVec.getLsbD_and, BitVec.getLsbD_append]
  interval_cases i <;> simp

theorem rbInit (r : RingId) : Statement (.rbInit r) := by cases r <;> exact fun _ => by decide
theorem rbInsert (r : RingId) (b : Byte) : Statement (.rbInsert r b) := by
  cases r <;> revert b <;> unfold Statement <;> decide
theorem rbRemove (r : RingId) : Statement (.rbRemove r) := by cases r <;> exact fun _ => by decide
theorem rbCount (r : RingId) : Statement (.rbCount r) := by cases r <;> exact fun _ => by decide
theorem rbIsempty (r : RingId) : Statement (.rbIsempty r) := by cases r <;> exact fun _ => by decide
theorem rbIsfull (r : RingId) : Statement (.rbIsfull r) := by cases r <;> exact fun _ => by decide
theorem rbFlush (r : RingId) : Statement (.rbFlush r) := by cases r <;> exact fun _ => by decide
theorem sysGie (imm : Byte) : Statement (.sysGie imm) := by revert imm; unfold Statement; decide
theorem stInit (sel : Byte) : Statement (.stInit sel) := by revert sel; unfold Statement; decide
theorem stWriteByte (b : Byte) : Statement (.stWriteByte b) := by revert b; unfold Statement; decide
theorem stReadByte : Statement .stReadByte := fun _ => by decide
theorem stAvail : Statement .stAvail := fun _ => by decide
theorem stWaitTc : Statement .stWaitTc := fun _ => by decide
theorem reservedD (x : BitVec 12) : Statement (.reservedD x) := fun _ => by
  simp only [fits, row, encode, beq_iff_eq]; exact reserved_fits x
theorem laPoll : Statement .laPoll := fun _ => by decide
theorem laDispatch : Statement .laDispatch := fun _ => by decide
theorem evRx : Statement .evRx := fun _ => by decide
theorem evTx : Statement .evTx := fun _ => by decide

end Sys2Proof.Laws.Encoding
end

