-- ==== Sys2Proof/Tests/Slice0.lean ====
section
/-! SUPPORT. The model's own tests: the smoke test of the well-formedness checks, words written out from R81 and R84, one-step tests
against 95_test_vectors.md, and for each statement with hypotheses a state that meets them. -/

namespace Sys2Proof.Tests

open Sys2Proof.Machine

/-! ## Small states -/

/-- Rings of two slots. -/
def small : Config := { Config.default with nRx := { n := 2 }, nTx := { n := 2 } }

/-- An initialized ring. -/
def ringOf (m : Mem) (inp out : Nat) (count : Word) : Ring :=
  { storage := m, inp := inp, out := out, count := count, initialized := true }

/-- From reset, both rings given and initialized by `RB_INIT`, the transport not: every ring command is admitted. -/
def rings (rx tx : Ring) : State := { State.resetWith small with rx := rx, tx := tx }

/-- The same after `ST_INIT 0x03` and `SYS_GIE 1`. -/
def live (rx tx : Ring) : State :=
  { rings rx tx with
    xport := { rxStatus := .idleEmpty, txStatus := .idleEmpty, rxStatusSet := true, txStatusSet := true,
               initialized := true, baud := 3, rxIe := true, txIe := false }
    line := { on := true, rxData := 0x41, rxPending := false, txData := 0x42, txReady := true }
    ctx := { gie := true, inIrq := false, critSaved := [] } }

/-- MAIN at a micro-step of a command, its local byte 0x41, one byte 0x43 to send. -/
def during (i : Instr) (ph : Phase) (s : State) : State :=
  { s with main := { op := some i, phase := ph, byte := 0x41, toSend := [0x43] } }

def empty : Ring := ringOf [] 0 0 0
/-- Cursors at the last slot, so that the next advance wraps. -/
def emptyEnd : Ring := ringOf [(0, 0x11), (1, 0x22)] 1 1 0
/-- One byte, 0x22, in the last slot. -/
def oneEnd : Ring := ringOf [(0, 0x11), (1, 0x22)] 0 1 1
/-- Two bytes, 0x22 the older. -/
def full : Ring := ringOf [(0, 0x11), (1, 0x22)] 1 1 2
/-- A count with no slot written under it: no run from reset reaches it. -/
def unwritten : Ring := ringOf [] 1 0 1

/-- The response words a result holds. -/
def rspOf : Result → Option (List RspWord)
  | .next t => some t.outputs.rsp
  | _ => none

/-- A part of the next state. -/
def got {α : Type} (f : State → α) : Result → Option α
  | .next t => some (f t)
  | _ => none

/-! ## Well-formedness -/

/-- R85(e): `SYS_GIE` with bit 1 or bit 7 of its operand set is ill-formed, and only bit 0 may be. -/
theorem test_wf_gie :
    (Instr.sysGie 0x02).wf = false ∧ (Instr.sysGie 0x80).wf = false ∧ (Instr.sysGie 0x01).wf = true := by decide

/-- Every other row takes every operand value. -/
theorem test_wf_others :
    (Instr.rbInsert .tx 0xFF).wf = true ∧ (Instr.stInit 0xFF).wf = true ∧ (Instr.reservedD 0xFFF).wf = true := by decide

/-! ## Decoding, words written bit by bit from R81, R84 and vectors 2.1 -/

theorem test_decode_rings :
    decodeCommand 0b0000000000000000#16 = .ok (.rbInit .rx) ∧ decodeCommand 0b0000100000000000#16 = .ok (.rbInit .tx) ∧
    decodeCommand 0b0001000001000001#16 = .ok (.rbInsert .rx 0x41) ∧
    decodeCommand 0b0001100011111111#16 = .ok (.rbInsert .tx 0xFF) ∧
    decodeCommand 0b0010100000000000#16 = .ok (.rbRemove .tx) ∧ decodeCommand 0b0011000000000000#16 = .ok (.rbCount .rx) ∧
    decodeCommand 0b0100100000000000#16 = .ok (.rbIsempty .tx) ∧
    decodeCommand 0b0101000000000000#16 = .ok (.rbIsfull .rx) ∧
    decodeCommand 0b0110100000000000#16 = .ok (.rbFlush .tx) := by decide

theorem test_decode_transport :
    decodeCommand 0b0111000000000001#16 = .ok (.sysGie 0x01) ∧ decodeCommand 0b1000000000000111#16 = .ok (.stInit 0x07) ∧
    decodeCommand 0b1001000001001011#16 = .ok (.stWriteByte 0x4B) ∧ decodeCommand 0b1010000000000000#16 = .ok .stReadByte ∧
    decodeCommand 0b1011000000000000#16 = .ok .stAvail ∧ decodeCommand 0b1100000000000000#16 = .ok .stWaitTc ∧
    decodeCommand 0b1101100000000101#16 = .ok (.reservedD 0x805) := by decide

theorem test_decode_client_and_events :
    decodeCommand 0b1110000000000000#16 = .ok .laPoll ∧ decodeCommand 0b1111000000000000#16 = .ok .laDispatch ∧
    decode (.vector 0) = .ok .evRx ∧ decode (.vector 1) = .ok .evTx ∧
    decodeTableWord 16 0x904B = some (.stWriteByte 0x4B) ∧ decodeTableWord 8 1 = some .evTx := by decide

/-- R85 (b) to (e), vectors 2.1. -/
theorem test_decode_rejects :
    decodeCommand 0x0100 = .error .reservedBits ∧ decodeCommand 0x1741 = .error .reservedBits ∧
    decodeCommand 0x9841 = .error .ringBit ∧ decodeCommand 0xF800 = .error .ringBit ∧
    decodeCommand 0x6002 = .error .operandBits ∧ decodeCommand 0xA001 = .error .operandBits ∧
    decodeCommand 0x7002 = .error .gieBits := by decide

/-- R84: the encoder writes the fields where the table has them. -/
theorem test_encode :
    encode (.rbInsert .tx 0x41) = .command 0x1841 ∧ encode (.sysGie 1) = .command 0x7001 ∧
    encode (.reservedD 0x800) = .command 0xD800 := by decide

/-! ## One step of each instruction, against 95_test_vectors.md -/

/-- Vector 2.2(d): `RB_INIT` resets the cursor and keeps the slots; its last micro-step marks and answers `0x00000`. -/
theorem test_rb_init :
    got (fun t => (t.rx.inp, t.rx.storage)) (exec (.rbInit .rx) (during (.rbInit .rx) (.initIn .rx) (rings full empty)))
      = some (0, [(0, 0x11), (1, 0x22)]) ∧
    got (fun t => (t.tx.initialized, t.outputs.rsp))
      (exec (.rbInit .tx) (during (.rbInit .tx) (.initMark .tx) (State.resetWith small))) = some (true, [0x00000]) := by decide

/-- Vector 2.2(b) rows 4 and 6: I2 wraps the cursor at the last slot, I1 overwrites the slot it names. -/
theorem test_rb_insert_wraps :
    got (fun t => t.rx.inp) (exec (.rbInsert .rx 5) (during (.rbInsert .rx 5) .i2 (rings emptyEnd empty))) = some 0 ∧
    got (fun t => t.rx.storage) (exec (.rbInsert .rx 5) (during (.rbInsert .rx 5) .i1 (rings emptyEnd empty)))
      = some [(0, 0x11), (1, 0x05)] := by decide

/-- Vector 2.2(a) row 7: insert into a full ring answers `0x20000`. -/
theorem test_rb_insert_full :
    rspOf (exec (.rbInsert .rx 0xBB) (during (.rbInsert .rx 0xBB) .i0 (rings full empty))) = some [0x20000] := by decide

/-- Vector 2.2(a) rows 8 and 9: the byte is the value; an empty ring answers `0x30000`. -/
theorem test_rb_remove :
    rspOf (exec (.rbRemove .rx) (during (.rbRemove .rx) .x3 (rings oneEnd empty))) = some [0x00041] ∧
    rspOf (exec (.rbRemove .rx) (during (.rbRemove .rx) .x0 (rings empty empty))) = some [0x30000] := by decide

/-- R104: X1 reads the slot the read cursor names, not the one the write cursor names. -/
theorem test_rb_remove_reads_out :
    got (fun t => t.main.byte) (exec (.rbRemove .rx) (during (.rbRemove .rx) .x1 (rings oneEnd empty))) = some 0x22 := by decide

/-- Vector 2.2(g): a full ring of two. -/
theorem test_rb_reads_full :
    rspOf (exec (.rbCount .rx) (during (.rbCount .rx) .single (rings full empty))) = some [0x00002] ∧
    rspOf (exec (.rbIsfull .rx) (during (.rbIsfull .rx) .single (rings full empty))) = some [0x00001] ∧
    rspOf (exec (.rbIsempty .rx) (during (.rbIsempty .rx) .single (rings full empty))) = some [0x00000] := by decide

/-- Vector 2.2(a) rows 2 and 3: an empty ring. -/
theorem test_rb_reads_empty :
    rspOf (exec (.rbIsfull .tx) (during (.rbIsfull .tx) .single (rings full empty))) = some [0x00000] ∧
    rspOf (exec (.rbIsempty .tx) (during (.rbIsempty .tx) .single (rings full empty))) = some [0x00001] := by decide

/-- S4: the flush of an empty ring answers `0x00000`. -/
theorem test_rb_flush :
    rspOf (exec (.rbFlush .rx) (during (.rbFlush .rx) .f1 (rings empty empty))) = some [0x00000] ∧
    got (fun t => (t.rx.count, t.main.phase)) (exec (.rbFlush .rx) (during (.rbFlush .rx) .x3 (rings full empty)))
      = some (1, .f1) := by decide

/-- Vectors 2.1: `SYS_GIE 1` sets `gie`, `SYS_GIE 0` clears it, each answering `0x00000`. -/
theorem test_sys_gie :
    got (fun t => (t.ctx.gie, t.outputs.rsp)) (exec (.sysGie 1) (during (.sysGie 1) .single (State.resetWith small)))
      = some (true, [0x00000]) ∧
    got (fun t => t.ctx.gie) (exec (.sysGie 0) (during (.sysGie 0) .single (live empty empty))) = some false := by decide

/-- Vectors 2.1: the selector 8 answers `0x10000` and halts; a second `ST_INIT` answers `0x70000`. -/
theorem test_st_init_faults :
    got (fun t => (t.outputs.rsp, t.faults.halted)) (exec (.stInit 8) (State.resetWith small)) = some ([0x10000], true) ∧
    got (fun t => (t.outputs.rsp, t.faults.halted)) (exec (.stInit 0) (live empty empty)) = some ([0x70000], false) := by decide

/-- R121: the enables are written after the statuses, `rx_ie` to 1, and the selector goes to `baud`. -/
theorem test_st_init_writes :
    got (fun t => (t.xport.rxIe, t.xport.txIe)) (exec (.stInit 7) (during (.stInit 7) .cfgRxIe (rings empty empty)))
      = some (true, false) ∧
    got (fun t => t.xport.baud) (exec (.stInit 7) (during (.stInit 7) .cfgBaud (State.resetWith small))) = some 7 := by decide

/-- R124: W1 spins on a full ring; W2 arms and answers `0x00000`. -/
theorem test_st_write_byte :
    got (fun t => t.main.phase) (exec (.stWriteByte 9) (during (.stWriteByte 9) .w1 (live empty full))) = some .w1 ∧
    got (fun t => (t.xport.txIe, t.outputs.rsp)) (exec (.stWriteByte 9) (during (.stWriteByte 9) .w2 (live empty oneEnd)))
      = some (true, [0x00000]) := by decide

/-- R127: the sentinel with `IDLE_EMPTY`; a removed byte leaves `rx_status`. -/
theorem test_st_read_byte :
    got (fun t => (t.xport.rxStatus, t.outputs.rsp))
      (exec .stReadByte (during .stReadByte .g2 ((live empty empty).setRxStatus .dataPending)))
      = some (.idleEmpty, [0x00000]) ∧
    got (fun t => (t.xport.rxStatus, t.outputs.rsp))
      (exec .stReadByte (during .stReadByte .x3 ((live full empty).setRxStatus .bufferFull)))
      = some (.bufferFull, [0x00041]) := by decide

/-- R128: `ST_AVAIL` answers the count of RX. -/
theorem test_st_avail : rspOf (exec .stAvail (during .stAvail .single (live full empty))) = some [0x00002] := by decide

/-- R129: the wait goes on while `TRANSMITTING` and ends on `IDLE_EMPTY`. -/
theorem test_st_wait_tc :
    rspOf (exec .stWaitTc (during .stWaitTc .t1 ((live empty empty).setTxStatus .transmitting))) = some [] ∧
    rspOf (exec .stWaitTc (during .stWaitTc .t1 (live empty empty))) = some [0x00000] := by decide

/-- Vectors 2.1: the reserved opcode answers `0x50000`, and `0x90000` once halted. -/
theorem test_reserved_d :
    rspOf (exec (.reservedD 0x800) (live empty empty)) = some [0x50000] ∧
    rspOf (exec (.reservedD 0x000) { live empty empty with faults := { halted := true, seen := true, code := 1 } })
      = some [0x90000] := by decide

/-- R163, R164: X3 sends a terminator to the handoff; the eighth character answers `0x80000`. -/
theorem test_la_poll :
    got (fun t => t.main.phase)
      (exec .laPoll { during .laPoll .x3 (live full empty) with main.byte := 0x0A }) = some .handoff ∧
    rspOf (exec .laPoll { during .laPoll .store (live full empty) with client.widx := 7 }) = some [0x80000] := by decide

/-- The command buffer with `S=42` in it (S6). -/
def assign42 : Vector Byte 8 := #v[0x53, 0x3D, 0x34, 0x32, 0, 0, 0, 0]

/-- S6: the assignment of 42. S7: an unknown key sends nothing. -/
theorem test_la_dispatch :
    got (fun t => t.client.sensitivity)
      (exec .laDispatch { during .laDispatch .assign (live empty empty) with client.cmdBuf := assign42 }) = some 42 ∧
    got (fun t => t.main.phase)
      (exec .laDispatch
        { during .laDispatch .route (live empty empty) with
          client.cmdReady := true, client.cmdBuf := #v[0x58, 0x3F, 0, 0, 0, 0, 0, 0] }) = some .done := by decide

/-- PROG4: a byte that finds RX full is dropped, `rx_status` becomes `BUFFER_FULL`, the pending byte is consumed. -/
theorem test_ev_rx_full :
    got (fun t => (t.xport.rxStatus, t.rx.storage, t.line.rxPending))
      (exec .evRx { live full empty with line.rxPending := true }) = some (.bufferFull, [(0, 0x11), (1, 0x22)], false) := by decide

/-- R142: a stored byte wraps the write cursor at the last slot. -/
theorem test_ev_rx_stores :
    got (fun t => (t.rx.storage, t.rx.inp, t.rx.count))
      (exec .evRx { live emptyEnd empty with line.rxPending := true }) = some ([(0, 0x11), (1, 0x41)], 0, 1) := by decide

/-- R144: on an empty ring the event disarms and the device keeps its byte. -/
theorem test_ev_tx_disarms :
    got (fun t => (t.xport.txIe, t.xport.txStatus, t.line.txReady))
      (exec .evTx { live empty empty with xport.txIe := true, xport.txStatus := .transmitting })
      = some (false, .idleEmpty, true) := by decide

/-- R144: otherwise the oldest byte goes to the device. -/
theorem test_ev_tx_sends :
    got (fun t => (t.line.txData, t.tx.out, t.tx.count, t.xport.txStatus))
      (exec .evTx { live empty full with xport.txIe := true }) = some (0x22, 0, 1, .transmitting) := by decide

/-- R168, S8: 42, the value 0 of a malformed payload, the ends of the range, and one past them, which has no stated value. -/
theorem test_parse_int :
    parseInt [0x53, 0x3D, 0x34, 0x32] = some 42 ∧ parseInt [0x5A, 0x3D, 0x61, 0x62, 0x63] = some 0 ∧
    parseInt [0x53, 0x3D, 0x2D, 0x33, 0x32, 0x37, 0x36, 0x38] = some 0x8000 ∧
    parseInt [0x53, 0x3D, 0x33, 0x32, 0x37, 0x36, 0x38] = none := by decide

/-- The first step after reset runs a placed command and a placed event. -/
theorem test_placed :
    got (fun t => t.main.op) (step (State.reset.withFetchWord 16 0x8003)) = some (some (.stInit 3)) ∧
    got (fun t => t.rx.count) (step (State.reset.withFetchWord 8 0)) = some 1 := by decide

/-! ## Witnesses: for each statement with hypotheses, and for each of its clauses, a state that meets them together -/

/-- A state at its command port: the word waits and MAIN steps next. -/
def atPort (w : Word) (s : State) : State := { s with inputs.cmds := [w], inputs.schedule := [.main] }

/-- The same state once halted. -/
def halted (s : State) : State :=
  { s with faults := { halted := true, seen := true, code := 1 }, xport.initialized := false, xport.rxIe := false }

/-- The same state with the schedule given. -/
def sched (l : List Agent) (s : State) : State := { s with inputs.schedule := l }

/-- DecodeOfEncodeIsIdentity, DecodedWordsEncodeBack. -/
theorem wit_encoding :
    (Instr.sysGie 1).wf = true ∧ (Instr.rbInsert .tx 0xFF).wf = true ∧ decodeCommand 0xDFFF = .ok (.reservedD 0xFFF) := by decide

/-- StepRunsTheDecodedCommand. -/
theorem wit_step_decoded :
    (atPort 0x9041 (live empty empty)).inputs.schedule = [.main] ∧ (atPort 0x9041 (live empty empty)).ctx.inIrq = false ∧
    (atPort 0x9041 (live empty empty)).main.op = none ∧ (atPort 0x9041 (live empty empty)).inputs.cmds = [0x9041] ∧
    decodeCommand 0x9041 = .ok (.stWriteByte 0x41) := by decide

/-- StepRunsTheOperationInProgress. -/
theorem wit_step_in_progress :
    (sched [.main] (during .stAvail .single (live full empty))).inputs.schedule = [.main] ∧
    (sched [.main] (during .stAvail .single (live full empty))).ctx.inIrq = false ∧
    (sched [.main] (during .stAvail .single (live full empty))).main.op = some .stAvail := by decide

/-- StepAnswersAnIllegalWord, before and after the halt. -/
theorem wit_step_illegal :
    ∀ s ∈ [atPort 0x7002 (live empty empty), atPort 0x7002 (halted (live empty empty))],
      s.inputs.schedule = [.main] ∧ s.ctx.inIrq = false ∧ s.main = MainSeq.idle ∧ s.inputs.cmds = [0x7002] ∧
      decodeCommand 0x7002 = .error .gieBits := by decide

/-- StepRunsTheOtherAgents, its five clauses. -/
theorem wit_step_agents :
    (sched [.irq .rx] (live empty empty)).inputs.schedule = [.irq .rx] ∧
    (sched [.irq .tx] (live empty empty)).inputs.schedule = [.irq .tx] ∧
    (sched [.lineRx] (live empty empty)).inputs.schedule = [.lineRx] ∧
    (sched [.lineTx] (live empty empty)).inputs.schedule = [.lineTx] ∧
    ((sched [.main] (live empty empty)).inputs.schedule = [.main] ∧ (sched [.main] (live empty empty)).main.op = none ∧
      (sched [.main] (live empty empty)).inputs.cmds = []) := by decide

/-- ChecksDecideInOrder: the clauses on illegal words, and the first two kinds of command that need initialization. -/
theorem wit_checks_illegal_uninit :
    (live empty empty).main.op = none ∧ (State.resetWith small).main.op = none ∧
    (halted (live empty empty)).faults.halted = true ∧ (live empty empty).faults.halted = false ∧
    (State.resetWith small).faults.halted = false ∧
    (1 < (0x02 : Byte).toNat ∧ Instr.isCommand (.sysGie 0x02) = true) ∧
    (({ live empty empty with cfg.hasClient := false } : State).cfg.hasClient = false ∧ Instr.isCommand .laDispatch = true) ∧
    (((State.resetWith small).ring .tx).initialized = false ∧ Instr.isCommand (.rbCount .tx) = true) ∧
    ((State.resetWith small).xport.initialized = false ∧ (State.resetWith small).cfg.hasClient = true ∧
      Instr.isCommand .laPoll = true) := by decide

/-- ChecksDecideInOrder, what the answers are there: `0x90000`, `0x50000` and `0x40000` (vectors 2.1, R85(f), R185). -/
theorem wit_checks_answers :
    rspOf (exec .laPoll (halted (live empty empty))) = some [0x90000] ∧
    rspOf (exec .laPoll { live empty empty with cfg.hasClient := false }) = some [0x50000] ∧
    rspOf (exec .laDispatch { live empty empty with cfg.hasClient := false }) = some [0x50000] ∧
    (∀ i ∈ [Instr.rbInsert .tx 1, .rbRemove .rx, .rbCount .tx, .rbIsempty .rx, .rbIsfull .tx, .rbFlush .rx, .stWriteByte 1,
        .stReadByte, .stAvail, .stWaitTc, .laPoll, .laDispatch],
      rspOf (exec i (State.resetWith small)) = some [0x40000]) := by decide

/-- ChecksDecideInOrder: the clauses on a second `ST_INIT`, ownership, the selector, and acceptance at the first and last valid
selector. -/
theorem wit_checks_late :
    ((live empty empty).xport.initialized = true ∧ rspOf (exec (.stInit 8) (live empty empty)) = some [0x70000]) ∧
    ((live full empty).xport.rxIe = true ∧ ((live full empty).ring .rx).initialized = true ∧
      rspOf (exec (.rbInsert .rx 0) (live full empty)) = some [0x60000]) ∧
    ((State.resetWith small).xport.initialized = false ∧ (8 : Byte) ∉ (State.resetWith small).cfg.baudValid ∧
      rspOf (exec (.stInit 8) (State.resetWith small)) = some [0x10000]) ∧
    (∀ sel ∈ [(0 : Byte), 7], sel ∈ (State.resetWith small).cfg.baudValid ∧
      got (fun t => t.main.op) (exec (.stInit sel) (State.resetWith small)) = some (some (.stInit sel))) := by decide

/-- BusyPortAcceptsNothing. -/
theorem wit_busy :
    Instr.stReadByte.isCommand = true ∧ (during .stAvail .single (live empty empty)).main.op = some .stAvail ∧
    Instr.stAvail ≠ .stReadByte := by decide

/-- RbInitMicroSteps, RbInitEmptiesTheRing. -/
theorem wit_rb_init :
    (∀ r ∈ [RingId.rx, .tx], ∀ ph ∈ [Phase.initIn r, .initOut r, .initCount r, .initMark r],
      (during (.rbInit r) ph (rings full full)).runs (.rbInit r) ph) ∧
    (∀ r ∈ [RingId.rx, .tx], (rings full full).main.op = none ∧ precheck (.rbInit r) (rings full full) = none) := by decide

/-- RbInsertMicroSteps, its five clauses. -/
theorem wit_rb_insert_micro :
    let i := Instr.rbInsert .rx 0x33
    let s (ph : Phase) := during i ph (rings emptyEnd empty)
    let f := during i .i0 (rings full empty)
    ((s .i0).runs i .i0 ∧ ((s .i0).ring .rx).count.toNat ≠ (s .i0).cap .rx) ∧
    (f.runs i .i0 ∧ (f.ring .rx).count.toNat = f.cap .rx) ∧
    ((s .i1).runs i .i1 ∧ ((s .i1).ring .rx).inp < (s .i1).cap .rx) ∧
    (s .i2).runs i .i2 ∧ (s .i3).runs i .i3 := by decide

/-- A ring with one byte and room for one more, its write cursor at the last slot. -/
def roomAtEnd : Ring := ringOf [(0, 0x11), (1, 0x22)] 1 0 1

theorem ringOk_roomAtEnd : RingOk 2 roomAtEnd := by constructor <;> decide

/-- RbInsertAppendsToTheQueue: the last free slot, with the write cursor about to wrap. -/
theorem wit_rb_insert_run :
    let s := rings empty roomAtEnd
    s.main.op = none ∧ precheck (.rbInsert .tx 0x33) s = none ∧ RingOk (s.cap .tx) (s.ring .tx) ∧
    (s.ring .tx).count.toNat < s.cap .tx ∧
    ((s.ring .tx).out + (s.ring .tx).count.toNat) % s.cap .tx = (s.ring .tx).inp :=
  ⟨by decide, by decide, ringOk_roomAtEnd, by decide, by decide⟩

/-- RingContractBreachesFault, both clauses. -/
theorem wit_ring_contract_faults :
    ((rings full empty).main = MainSeq.idle ∧ precheck (.rbInsert .rx 1) (rings full empty) = none ∧
      ((rings full empty).ring .rx).count.toNat = (rings full empty).cap .rx) ∧
    ((rings full empty).main = MainSeq.idle ∧ precheck (.rbRemove .tx) (rings full empty) = none ∧
      ((rings full empty).ring .tx).count = 0) := by decide

/-- RbRemoveMicroSteps, its six clauses; the fourth in a state no run reaches. -/
theorem wit_rb_remove_micro :
    let i := Instr.rbRemove .rx
    let s (ph : Phase) := during i ph (rings oneEnd empty)
    let e := during i .x0 (rings empty empty)
    let u := during i .x1 (rings unwritten empty)
    ((s .x0).runs i .x0 ∧ ((s .x0).ring .rx).count ≠ 0) ∧ (e.runs i .x0 ∧ (e.ring .rx).count = 0) ∧
    ((s .x1).runs i .x1 ∧ ((s .x1).ring .rx).out < (s .x1).cap .rx ∧ (s .x1).slot .rx ((s .x1).ring .rx).out = some 0x22) ∧
    (u.runs i .x1 ∧ (u.ring .rx).out < u.cap .rx ∧ u.slot .rx (u.ring .rx).out = none) ∧
    (s .x2).runs i .x2 ∧ (s .x3).runs i .x3 := by decide

/-- RbRemoveTakesTheOldestByte: the read cursor at the last slot. -/
theorem wit_rb_remove_run :
    let s := rings full empty
    s.main.op = none ∧ precheck (.rbRemove .rx) s = none ∧ (s.ring .rx).out < s.cap .rx ∧
    s.contents .rx = some 0x22 :: [some 0x11] := by decide

/-- CountReadsAnswerTheOccupancy, EmptyAndFullAnswerFromCount, each clause. -/
theorem wit_atomic_reads :
    (during (.rbCount .tx) .single (rings full empty)).runs (.rbCount .tx) .single ∧
    (during (.rbIsempty .tx) .single (rings full empty)).runs (.rbIsempty .tx) .single ∧
    (during (.rbIsfull .rx) .single (rings full empty)).runs (.rbIsfull .rx) .single ∧
    (during .stAvail .single (live full empty)).runs .stAvail .single := by decide

/-- RbFlushMicroSteps, its six clauses. -/
theorem wit_rb_flush_micro :
    let i := Instr.rbFlush .tx
    let s (ph : Phase) := during i ph (rings empty oneEnd)
    let e := during i .f1 (rings empty empty)
    let u := during i .x1 (rings empty unwritten)
    (e.runs i .f1 ∧ (e.ring .tx).count = 0) ∧ ((s .f1).runs i .f1 ∧ ((s .f1).ring .tx).count ≠ 0) ∧
    ((s .x1).runs i .x1 ∧ ((s .x1).ring .tx).out < (s .x1).cap .tx ∧ (s .x1).slot .tx ((s .x1).ring .tx).out = some 0x22) ∧
    (u.runs i .x1 ∧ (u.ring .tx).out < u.cap .tx ∧ u.slot .tx (u.ring .tx).out = none) ∧
    (s .x2).runs i .x2 ∧ (s .x3).runs i .x3 := by decide

/-- RbFlushEmptiesTheRing: a full ring. -/
theorem wit_rb_flush_run :
    let s := rings full empty
    s.main.op = none ∧ precheck (.rbFlush .rx) s = none ∧ (s.ring .rx).out < s.cap .rx ∧
    ∀ k, k < (s.ring .rx).count.toNat → s.slot .rx (((s.ring .rx).out + k) % s.cap .rx) ≠ none := by decide

/-- OwnershipBreachesAreRefused, both clauses: both enables on, each of the five breaches is answered `0x60000`. -/
theorem wit_ownership :
    let s : State := { live full oneEnd with xport.txIe := true }
    s.main = MainSeq.idle ∧ s.faults.halted = false ∧ s.rx.initialized = true ∧ s.tx.initialized = true ∧
    s.xport.rxIe = true ∧ s.xport.txIe = true ∧
    ∀ i ∈ [Instr.rbInit .rx, .rbInsert .rx 7, .rbInit .tx, .rbRemove .tx, .rbFlush .tx],
      rspOf (exec i s) = some (s.outputs.rsp ++ [0x60000]) := by decide

/-- StInitMicroSteps, its clauses. -/
theorem wit_st_init_micro :
    ∀ ph ∈ [Phase.cfgBaud, .cfgLineOn, .cfgRxPending, .cfgTxReady, .initIn .rx, .initOut .rx, .initCount .rx, .initMark .rx,
        .initIn .tx, .initOut .tx, .initCount .tx, .initMark .tx, .cfgRxStatus, .cfgTxStatus, .cfgTxIe, .cfgRxIe, .cfgMark],
      (during (.stInit 7) ph (State.resetWith small)).runs (.stInit 7) ph := by decide

/-- StInitConfiguresTheTransport: the last valid selector. -/
theorem wit_st_init_run :
    (State.resetWith small).main = MainSeq.idle ∧ precheck (.stInit 7) (State.resetWith small) = none := by decide

/-- StInitFaults, both clauses: the first selector that is not valid, and a valid one. -/
theorem wit_st_init_faults :
    ((State.resetWith small).main = MainSeq.idle ∧ (State.resetWith small).faults.halted = false ∧
      (State.resetWith small).xport.initialized = false ∧ (8 : Byte) ∉ (State.resetWith small).cfg.baudValid) ∧
    ((live empty empty).main = MainSeq.idle ∧ (live empty empty).faults.halted = false ∧
      (live empty empty).xport.initialized = true) := by decide

/-- HaltedAnswersEveryCommand, ReservedOpcodeIsIllegal. -/
theorem wit_halted_and_reserved :
    ((Instr.reservedD 1).isCommand = true ∧ (halted (live empty empty)).main = MainSeq.idle ∧
      (halted (live empty empty)).faults.halted = true) ∧
    ((live empty empty).main = MainSeq.idle ∧ (live empty empty).faults.halted = false) := by decide

/-- SysGieWritesGie, StWaitTcWaitsWhileTransmitting. -/
theorem wit_single_steps :
    (during (.sysGie 1) .single (State.resetWith small)).runs (.sysGie 1) .single ∧
    ((during .stWaitTc .t1 (live empty empty)).runs .stWaitTc .t1 ∧
      (during .stWaitTc .t1 (live empty empty)).xport.txStatus ≠ .transmitting) ∧
    ((during .stWaitTc .t1 ((live empty empty).setTxStatus .transmitting)).runs .stWaitTc .t1 ∧
      (during .stWaitTc .t1 ((live empty empty).setTxStatus .transmitting)).xport.txStatus = .transmitting) := by decide

/-- StWriteByteMicroSteps, its six clauses. -/
theorem wit_st_write_micro :
    let i := Instr.stWriteByte 0x41
    let s (ph : Phase) := during i ph (live empty emptyEnd)
    let f := during i .w1 (live empty full)
    (f.runs i .w1 ∧ f.tx.count.toNat = f.cap .tx) ∧ ((s .w1).runs i .w1 ∧ (s .w1).tx.count.toNat ≠ (s .w1).cap .tx) ∧
    ((s .i1).runs i .i1 ∧ (s .i1).tx.inp < (s .i1).cap .tx) ∧ (s .i2).runs i .i2 ∧ (s .i3).runs i .i3 ∧
    (s .w2).runs i .w2 := by decide

/-- StWriteByteQueuesAndArms. -/
theorem wit_st_write_run :
    let s := live empty roomAtEnd
    s.main.op = none ∧ precheck (.stWriteByte 0x33) s = none ∧ RingOk (s.cap .tx) s.tx ∧ s.tx.count.toNat < s.cap .tx ∧
    (s.tx.out + s.tx.count.toNat) % s.cap .tx = s.tx.inp :=
  ⟨by decide, by decide, ringOk_roomAtEnd, by decide, by decide⟩

/-- MaskedWriteNeverLeavesItsWait: MAIN, the device and a handler that cannot start each have a next step. -/
theorem wit_masked_write :
    ∀ a ∈ [Agent.main, .irq .tx, .lineTx],
      let s := sched [a] { during (.stWriteByte 1) .w1 (live empty full) with ctx.gie := false, xport.txIe := true }
      s.runs (.stWriteByte 1) .w1 ∧ s.tx.count.toNat = s.cap .tx ∧ s.ctx.gie = false ∧
      (got (fun _ => true) (step s) = some true) := by decide

/-- StReadByteMicroSteps, its clauses. -/
theorem wit_st_read_micro :
    let i := Instr.stReadByte
    let s (ph : Phase) := during i ph (live oneEnd empty)
    let e := during i .g1 (live empty empty)
    let u := during i .x1 (live unwritten empty)
    (e.runs i .g1 ∧ e.rx.count = 0) ∧ ((s .g1).runs i .g1 ∧ (s .g1).rx.count ≠ 0) ∧ (s .g2).runs i .g2 ∧
    ((s .x1).runs i .x1 ∧ (s .x1).rx.out < (s .x1).cap .rx ∧ (s .x1).slot .rx (s .x1).rx.out = some 0x22) ∧
    (u.runs i .x1 ∧ u.rx.out < u.cap .rx ∧ u.slot .rx u.rx.out = none) ∧
    (s .x2).runs i .x2 ∧ (s .x3).runs i .x3 := by decide

/-- StReadByteTakesTheOldestByteOrTheSentinel, both clauses. -/
theorem wit_st_read_run :
    ((live full empty).main.op = none ∧ precheck .stReadByte (live full empty) = none ∧
      (live full empty).rx.out < (live full empty).cap .rx ∧ (live full empty).contents .rx = some 0x22 :: [some 0x11]) ∧
    ((live emptyEnd empty).main.op = none ∧ precheck .stReadByte (live emptyEnd empty) = none ∧
      (live emptyEnd empty).rx.out < (live emptyEnd empty).cap .rx ∧ (live emptyEnd empty).contents .rx = []) := by decide

/-- A state in which both events are requested. -/
def bothRequested (rx tx : Ring) : State := { live rx tx with line.rxPending := true, xport.txIe := true }

/-- EvRxStoresOrDropsTheByte: the trigger holds with a full ring and with room at the last slot; each of its five conditions can fail. -/
theorem wit_ev_rx :
    (∀ s ∈ [bothRequested full empty, bothRequested emptyEnd empty],
      s.ctx.inIrq = false ∧ s.ctx.gie = true ∧ s.xport.rxIe = true ∧ s.line.rxPending = true ∧
      ¬ (s.cfg.irqOrder = .txFirst ∧ s.xport.txIe = true ∧ s.line.txReady = true)) ∧
    (bothRequested full empty).rx.count.toNat = (bothRequested full empty).cap .rx ∧
    ((bothRequested emptyEnd empty).rx.count.toNat ≠ (bothRequested emptyEnd empty).cap .rx ∧
      (bothRequested emptyEnd empty).rx.inp < (bothRequested emptyEnd empty).cap .rx) ∧
    (let b := bothRequested emptyEnd empty
     ∀ s ∈ [{ b with ctx.inIrq := true }, { b with ctx.gie := false }, { b with xport.rxIe := false }, { b with line.rxPending := false },
        { b with cfg.irqOrder := .txFirst }],
      ¬ (s.ctx.inIrq = false ∧ s.ctx.gie = true ∧ s.xport.rxIe = true ∧ s.line.rxPending = true ∧
        ¬ (s.cfg.irqOrder = .txFirst ∧ s.xport.txIe = true ∧ s.line.txReady = true))) := by decide

/-- EvTxSendsOrDisarms: the trigger holds in the states of the last three clauses; each of its five conditions can fail. -/
theorem wit_ev_tx :
    (∀ s ∈ [bothRequested empty empty, bothRequested empty oneEnd, bothRequested empty unwritten],
      s.ctx.inIrq = false ∧ s.ctx.gie = true ∧ s.xport.txIe = true ∧ s.line.txReady = true ∧
      ¬ (s.cfg.irqOrder = .rxFirst ∧ s.xport.rxIe = true ∧ s.line.rxPending = true)) ∧
    (bothRequested empty empty).tx.count = 0 ∧
    ((bothRequested empty oneEnd).tx.count ≠ 0 ∧ (bothRequested empty oneEnd).tx.out < (bothRequested empty oneEnd).cap .tx ∧
      (bothRequested empty oneEnd).slot .tx (bothRequested empty oneEnd).tx.out = some 0x22) ∧
    ((bothRequested empty unwritten).tx.count ≠ 0 ∧
      (bothRequested empty unwritten).tx.out < (bothRequested empty unwritten).cap .tx ∧
      (bothRequested empty unwritten).slot .tx (bothRequested empty unwritten).tx.out = none) ∧
    (let b := bothRequested empty oneEnd
     ∀ s ∈ [{ b with ctx.inIrq := true }, { b with ctx.gie := false }, { b with xport.txIe := false }, { b with line.txReady := false },
        { b with cfg.irqOrder := .rxFirst }],
      ¬ (s.ctx.inIrq = false ∧ s.ctx.gie = true ∧ s.xport.txIe = true ∧ s.line.txReady = true ∧
        ¬ (s.cfg.irqOrder = .rxFirst ∧ s.xport.rxIe = true ∧ s.line.rxPending = true))) := by decide

/-- TheTwoEventsCommute: both orders run with `ANY`; under each fixed order the one handler runs and the other is there to wait. -/
theorem wit_events_commute :
    let s := bothRequested emptyEnd oneEnd
    (s.ctx.inIrq = false ∧ s.ctx.gie = true ∧ s.xport.rxIe = true ∧ s.line.rxPending = true ∧ s.xport.txIe = true ∧
      s.line.txReady = true ∧ s.cfg.irqOrder = .any) ∧
    (∃ a b c d, exec .evRx s = .next a ∧ exec .evTx a = .next b ∧ exec .evTx s = .next c ∧ exec .evRx c = .next d) ∧
    (∃ a, exec .evRx { s with cfg.irqOrder := .rxFirst } = .next a) ∧
    (∃ c, exec .evTx { s with cfg.irqOrder := .txFirst } = .next c) :=
  ⟨by decide, ⟨_, _, _, _, rfl, rfl, rfl, rfl⟩, ⟨_, rfl⟩, ⟨_, rfl⟩⟩

/-- ArrivalDeliversOrOverruns, its three clauses. -/
theorem wit_arrival :
    let s : State := { live empty empty with inputs.wireIn := [0x31] }
    s.inputs.wireIn = [0x31] ∧ ({ s with line.on := false } : State).line.on = false ∧
    (s.line.on = true ∧ s.line.rxPending = false) ∧
    (({ s with line.rxPending := true } : State).line.on = true ∧ ({ s with line.rxPending := true } : State).line.rxPending = true) := by
  decide

/-- TakePutsTheByteOnTheLine, its two clauses. -/
theorem wit_take :
    (({ live empty empty with line.txReady := false } : State).line.on = true ∧
      ({ live empty empty with line.txReady := false } : State).line.txReady = false) ∧
    ((State.resetWith small).line.on = false ∨ (State.resetWith small).line.txReady = true) := by decide

/-- CriticalSectionRestoresTheMask: the body that counts a byte in, with interrupts enabled and masked. -/
theorem wit_critical_section :
    ∀ s ∈ [live empty empty, State.resetWith small],
      (countUp .rx (enterCrit s)).ctx.critSaved = s.ctx.gie :: s.ctx.critSaved := by decide

/-- LaPollMicroSteps, its clauses. -/
theorem wit_la_poll_micro :
    let i := Instr.laPoll
    let s (ph : Phase) := during i ph (live oneEnd empty)
    let e := during i .p1 (live empty empty)
    let u := during i .x1 (live unwritten empty)
    let l : State := { s .store with client.widx := 7 }
    let k : State := { s .store with client.widx := 6 }
    (e.runs i .p1 ∧ e.rx.count = 0) ∧ ((s .p1).runs i .p1 ∧ (s .p1).rx.count ≠ 0) ∧
    ((s .x1).runs i .x1 ∧ (s .x1).rx.out < (s .x1).cap .rx ∧ (s .x1).slot .rx (s .x1).rx.out = some 0x22) ∧
    (u.runs i .x1 ∧ u.rx.out < u.cap .rx ∧ u.slot .rx u.rx.out = none) ∧
    (s .x2).runs i .x2 ∧ (s .x3).runs i .x3 ∧ (s .handoff).runs i .handoff ∧ (s .handoffIdx).runs i .handoffIdx ∧
    (s .handoffReady).runs i .handoffReady ∧ (k.runs i .store ∧ k.client.widx < 7) ∧ (l.runs i .store ∧ 7 ≤ l.client.widx) ∧
    (s .storeIdx).runs i .storeIdx := by decide

/-- PolledLineReachesTheCommandBuffer: the empty line, and the line `S`, each ending at the last slot. -/
theorem wit_polled_line :
    (let s := live (ringOf [(1, 0x0A)] 0 1 1) empty
     s.main.op = none ∧ precheck .laPoll s = none ∧ s.rx.out < s.cap .rx ∧ s.contents .rx = [].map some ++ [some 0x0A] ∧
     s.client.widx = 0 ∧ s.client.lineBuf = Vector.replicate 8 0) ∧
    (let s := live (ringOf [(0, 0x53), (1, 0x0A)] 0 0 2) empty
     s.main.op = none ∧ precheck .laPoll s = none ∧ s.rx.out < s.cap .rx ∧
     (∀ b ∈ ([0x53] : List Byte), b ≠ 0x0A) ∧ s.contents .rx = [0x53].map some ++ [some 0x0A] ∧
     s.client.widx = 0 ∧ s.client.lineBuf = Vector.replicate 8 0) := by decide

/-- A state that dispatches the command buffer `k m a b` at phase `ph`. -/
def dispatching (ph : Phase) (k m a b : Byte) : State :=
  { during .laDispatch ph (live empty emptyEnd) with client.cmdReady := true, client.cmdBuf := #v[k, m, a, b, 0, 0, 0, 0] }

/-- The same with the payload `=32768`, which has no stated value. -/
def dispatchingBig (k : Byte) : State :=
  { during .laDispatch .assign (live empty emptyEnd) with
    client.cmdReady := true, client.cmdBuf := #v[k, 0x3D, 0x33, 0x32, 0x37, 0x36, 0x38, 0] }

/-- LaDispatchMicroSteps, the clauses of the first micro-step. -/
theorem wit_la_dispatch_route :
    let i := Instr.laDispatch
    let n := during i .route (live empty empty)
    let q (k : Byte) := dispatching .route k 0x3F 0 0
    (n.runs i .route ∧ n.client.cmdReady = false) ∧
    (∀ k ∈ ([0x53, 0x58, 0x54] : List Byte),
      (q k).runs i .route ∧ (q k).client.cmdReady = true ∧ (q k).client.cmdBuf[1] = 0x3F ∧ (q k).client.cmdBuf[0] = k) ∧
    (0x58 : Byte) ∉ ([0x53, 0x54, 0x44, 0x48] : List Byte) ∧ (0x54 : Byte) ∈ ([0x54, 0x44, 0x48] : List Byte) ∧
    ((dispatching .route 0x53 0x3D 0x31 0).runs i .route ∧ (dispatching .route 0x53 0x3D 0x31 0).client.cmdReady = true ∧
      (dispatching .route 0x53 0x3D 0x31 0).client.cmdBuf[1] = 0x3D) ∧
    ((dispatching .route 0x53 0 0 0).runs i .route ∧ (dispatching .route 0x53 0 0 0).client.cmdReady = true ∧
      (dispatching .route 0x53 0 0 0).client.cmdBuf[1] ≠ 0x3F ∧ (dispatching .route 0x53 0 0 0).client.cmdBuf[1] ≠ 0x3D) := by decide

/-- LaDispatchMicroSteps, the clauses of the assignment. -/
theorem wit_la_dispatch_assign :
    let i := Instr.laDispatch
    let a (k : Byte) := dispatching .assign k 0x3D 0x34 0x32
    (∀ k ∈ ([0x53, 0x54, 0x58] : List Byte), (a k).runs i .assign ∧ parseInt (content (a k).client.cmdBuf) = some 42 ∧
      (dispatchingBig k).runs i .assign ∧ parseInt (content (dispatchingBig k).client.cmdBuf) = none) ∧
    (a 0x53).client.cmdBuf[0] = 0x53 ∧ (dispatchingBig 0x53).client.cmdBuf[0] = 0x53 ∧
    (a 0x54).client.cmdBuf[0] ∈ ([0x54, 0x44, 0x48] : List Byte) ∧
    (dispatchingBig 0x54).client.cmdBuf[0] ∈ ([0x54, 0x44, 0x48] : List Byte) ∧
    (a 0x58).client.cmdBuf[0] ∉ ([0x53, 0x54, 0x44, 0x48] : List Byte) ∧
    (dispatchingBig 0x58).client.cmdBuf[0] ∉ ([0x53, 0x54, 0x44, 0x48] : List Byte) := by decide

/-- LaDispatchMicroSteps, the clauses of the sending and of the end. -/
theorem wit_la_dispatch_send :
    let i := Instr.laDispatch
    let s (ph : Phase) := dispatching ph 0x53 0x3F 0 0
    let f := during i .w1 (live empty full)
    (f.runs i .w1 ∧ f.tx.count.toNat = f.cap .tx) ∧ ((s .w1).runs i .w1 ∧ (s .w1).tx.count.toNat ≠ (s .w1).cap .tx) ∧
    ((s .i1).runs i .i1 ∧ (s .i1).tx.inp < (s .i1).cap .tx ∧ (s .i1).main.toSend = 0x43 :: []) ∧ (s .i2).runs i .i2 ∧
    (s .i3).runs i .i3 ∧ ((s .w2).runs i .w2 ∧ (s .w2).main.toSend = 0x43 :: []) ∧ (s .done).runs i .done := by decide

/-- ParseOfDecimalSpellingIsIdentity, PseudoOperationsExpand: digits and signs at the ends of the range and one past it, a text before
the first equals sign, a buffer with and without a zero. -/
theorem wit_parse :
    (∀ b ∈ ([0x53, 0x2D] : List Byte), b ≠ 0x3D) ∧ IsSign [] ∧ IsSign [0x2B] ∧ IsSign [0x2D] ∧
    IsDigits [0x33, 0x32, 0x37, 0x36, 0x38] ∧ decimalValue [0x33, 0x32, 0x37, 0x36, 0x38] = 32768 ∧
    IsDigits [0x30, 0x34, 0x32] ∧ decimalValue [0x30, 0x34, 0x32] = (42 : Word).toInt.natAbs ∧
    assign42.toList = [0x53, 0x3D, 0x34, 0x32] ++ [0, 0, 0, 0] ∧ (∀ b ∈ ([0x53, 0x3D, 0x34, 0x32] : List Byte), b ≠ 0) ∧
    (Vector.replicate 8 (0x41 : Byte)).toList = List.replicate 8 0x41 ++ [] := by decide

/-- ParseOfDecimalSpellingIsIdentity, the malformed suffixes: the absent one, a sign alone, and `-A`. -/
theorem wit_parse_malformed :
    ∀ suffix ∈ ([[], [0x2D], [0x2D, 0x41]] : List (List Byte)),
      ∀ sign digits, suffix = sign ++ digits → IsSign sign → ¬ IsDigits digits := by
  intro suffix hs sign digits h _ ⟨hne, hd⟩
  obtain ⟨d, hmem⟩ := List.exists_mem_of_ne_nil digits hne
  have noDigit : ∀ s ∈ ([[], [0x2D], [0x2D, 0x41]] : List (List Byte)), ∀ d ∈ s, ¬ (0x30 ≤ d.toNat ∧ d.toNat ≤ 0x39) := by decide
  exact noDigit suffix hs d (h ▸ List.mem_append_right sign hmem) (hd d hmem)

/-- SensitivityQueryQueuesItsResponse: room for exactly the 16 bytes of `sensitivity = 0` and its line end. -/
theorem wit_sensitivity_query :
    let s : State :=
      { live empty empty with
        cfg.nTx := { n := 16 }, client.cmdReady := true, client.cmdBuf := #v[0x53, 0x3F, 0, 0, 0, 0, 0, 0] }
    s.main.op = none ∧ precheck .laDispatch s = none ∧ RingOk (s.cap .tx) s.tx ∧
    (s.tx.out + s.tx.count.toNat) % s.cap .tx = s.tx.inp ∧ s.client.cmdReady = true ∧ s.client.cmdBuf[0] = 0x53 ∧
    s.client.cmdBuf[1] = 0x3F ∧ s.tx.count.toNat + (sensitivityText s.client.sensitivity).length ≤ s.cap .tx :=
  ⟨by decide, by decide, by constructor <;> decide, by decide, by decide, by decide, by decide, by decide⟩

/-- A state in the middle of `RB_INSERT TX`, its count still behind its cursor, with a byte waiting in RX. -/
def midInsert : State :=
  sched [.main] (during (.rbInsert .tx 0x33) .i3 (live (ringOf [(0, 0x11)] 1 0 1) (ringOf [(0, 0x11), (1, 0x33)] 0 0 1)))

/-- EveryStepKeepsTheInvariant, InvariantStatesNeverStop, HandlersNeverFaultNorRespond, EachCursorHasOneWriter: the invariant holds in a
state with an insertion part-way and receive interrupts on, and a step leaves it. -/
theorem wit_invariant : Inv midInsert where
  ringOk r := by cases r <;> constructor <;> decide
  agrees r _ := by
    cases r
    · refine ⟨by decide, fun k hk => ?_⟩
      have h : k < 1 := hk
      obtain rfl : k = 0 := by omega
      decide
    · refine ⟨by decide, fun k hk => ?_⟩
      have h : k < 2 := hk
      rcases (by omega : k = 0 ∨ k = 1) with rfl | rfl <;> decide
  contract r := by cases r <;> exact ⟨by decide, by decide, by decide⟩
  midInitOk r := by cases r <;> exact ⟨by decide, by decide⟩
  mainOk := ⟨by decide, by decide, by decide, by decide, by decide, fun _ h => by cases h⟩
  xportOk := ⟨by decide, by decide, by decide, by decide, fun _ => .inl (by decide), by decide⟩
  faultsOk := ⟨by decide, by decide, by decide⟩
  ctxOk := by decide
  lineOk := by decide
  clientOk := by decide

/-- The steps those four statements and MarksAndRecordsAreSticky speak of. -/
theorem wit_next_states :
    (∃ t, step midInsert = .next t) ∧ (∃ t, mainStep midInsert = .next t) ∧ midInsert.xport.rxIe = true ∧
    (∃ t, exec .evRx (bothRequested emptyEnd oneEnd) = .next t) ∧ (∃ t, exec .evTx (bothRequested emptyEnd oneEnd) = .next t) :=
  ⟨⟨_, rfl⟩, ⟨_, rfl⟩, rfl, ⟨_, rfl⟩, ⟨_, rfl⟩⟩

/-- MarksAndRecordsAreSticky, StatusPortsReadTheRegisters: states in which each mark is set, that step. -/
theorem wit_sticky :
    (∃ t, step (sched [.main] (halted (live empty empty))) = .next t) ∧ (halted (live empty empty)).faults.halted = true ∧
    (halted (live empty empty)).faults.seen = true ∧ midInsert.line.on = true ∧ midInsert.rx.initialized = true ∧
    midInsert.tx.initialized = true ∧ midInsert.xport.initialized = true ∧ midInsert.xport.rxStatusSet = true ∧
    midInsert.xport.txStatusSet = true :=
  ⟨⟨_, rfl⟩, rfl, rfl, rfl, rfl, rfl, rfl, rfl, rfl⟩

/-- MarksAndRecordsAreSticky, the clause on `rx_ie`: the micro-step of `ST_INIT` that sets it. -/
theorem wit_rx_ie_set :
    let s := sched [.main] (during (.stInit 3) .cfgRxIe (rings empty empty))
    s.xport.rxIe = false ∧ got (fun t => t.xport.rxIe) (step s) = some true := by decide

/-- EachCursorHasOneWriter, the clause of TX: armed, MAIN part-way through `ST_READ_BYTE`. -/
theorem wit_one_writer_tx :
    (∃ t, mainStep { during .stReadByte .x2 (live oneEnd oneEnd) with xport.txIe := true } = .next t) ∧
    ({ during .stReadByte .x2 (live oneEnd oneEnd) with xport.txIe := true } : State).xport.txIe = true := ⟨⟨_, rfl⟩, rfl⟩

/-- QuiescentStatesStay: an initialized transport with nothing to do, whichever agent is scheduled. -/
theorem wit_quiescent :
    ∀ a ∈ [Agent.main, .irq .rx, .lineRx, .lineTx],
      Quiescent (sched [a] (live full empty)) ∧ got (fun _ => true) (step (sched [a] (live full empty))) = some true := by decide

/-- The frames: a next state for each of their instructions. -/
theorem wit_frames :
    ∀ p ∈ [(Instr.rbCount .rx, Phase.single), (.rbIsempty .tx, .single), (.rbIsfull .tx, .single), (.stAvail, .single),
        (.stWaitTc, .t1), (.rbInit .rx, .initIn .rx), (.rbInsert .rx 5, .i1), (.rbRemove .rx, .x1), (.rbFlush .rx, .x1),
        (.sysGie 1, .single), (.stInit 3, .cfgBaud), (.stWriteByte 5, .i1), (.stReadByte, .x1), (.laPoll, .x1),
        (.laDispatch, .i1)],
      got (fun _ => true) (exec p.1 (during p.1 p.2 (live oneEnd emptyEnd))) = some true := by decide

/-- ReadingCommandsFrame, the reserved word. -/
theorem wit_frame_reserved : ∃ t, exec (.reservedD 0x123) (live oneEnd emptyEnd) = .next t := ⟨_, rfl⟩

end Sys2Proof.Tests
end

section
/-! The step as the scheduled agent's step, and what a step of idle MAIN does with the command port (R9, R46, R80). -/

namespace Sys2Proof.Machine

/-- R9: the head of the schedule is consumed and that agent steps. -/
theorem step_of_schedule_cons {s : State} {a : Agent} {sch : List Agent} (h : s.inputs.schedule = a :: sch) :
    step s = agentStep a { s with inputs.schedule := sch } := by
  simp only [step, machineStep, nextAgent, h]

/-- R46, R80(a): idle MAIN takes the next word and executes the instruction it decodes to. -/
theorem mainStep_of_decoded {s : State} {w : Word} {ws : List Word} {i : Instr} (hirq : s.ctx.inIrq = false)
    (hop : s.main.op = none) (hcmds : s.inputs.cmds = w :: ws) (hdec : decodeCommand w = .ok i) :
    mainStep s = exec i { s with inputs.cmds := ws } := by
  simp [mainStep, hirq, hop, hcmds, hdec]

/-- R46: MAIN with no operation and no command waits, whether or not a handler runs. -/
theorem mainStep_of_no_command {s : State} (hop : s.main.op = none) (hcmds : s.inputs.cmds = []) :
    mainStep s = .next s := by
  simp [mainStep, hop, hcmds]

/-- Settles O5: the head of the schedule is MAIN, whose step takes the word and executes what it decodes to. -/
theorem stepRunsTheDecodedCommand : Obligations.StepRunsTheDecodedCommand := by
  intro s sch w ws i hsched hirq hop hcmds hdec
  rw [step_of_schedule_cons hsched]
  exact mainStep_of_decoded hirq hop hcmds hdec

/-- Settles O8: each clause is the step of the agent at the head of the schedule; MAIN's is the wait. -/
theorem stepRunsTheOtherAgents : Obligations.StepRunsTheOtherAgents := by
  intro s sch
  refine ⟨step_of_schedule_cons, step_of_schedule_cons, step_of_schedule_cons, step_of_schedule_cons, ?_⟩
  intro hsched hop hcmds
  rw [step_of_schedule_cons hsched]
  exact mainStep_of_no_command hop hcmds

end Sys2Proof.Machine
end

section
/-! The invariant of one ring, as a fact about the ring and the part MAIN plays on it (R26, R27, R30, R69 to R72). -/

namespace Sys2Proof.Machine

/-- Cursors and count of a ring agree and its occupied slots are written, when `pin` bytes have moved `in` alone and `pout` bytes
have moved `out` alone (R30, R21). -/
structure Agrees (cap pin pout : Nat) (v : Ring) : Prop where
  balance : v.out + v.count.toNat + pin ≡ v.inp + pout [MOD cap]
  written : ∀ k, k + pout < v.count.toNat + pin → Mem.read v.storage ((v.out + k) % cap) ≠ none

theorem Mem.read_write_ne_none {m : Mem} {j : Nat} (i : Nat) (b : Byte) (h : Mem.read m j ≠ none) :
    Mem.read (Mem.write m i b) j ≠ none := by
  rw [Mem.read_write]; split <;> simp [h]

theorem Agrees.write {cap pin pout : Nat} {v : Ring} (i : Nat) (b : Byte) (h : Agrees cap pin pout v) :
    Agrees cap pin pout { v with storage := Mem.write v.storage i b } :=
  ⟨h.balance, fun k hk => Mem.read_write_ne_none i b (h.written k hk)⟩

/-- Moving `in` past a written slot: the slot it named is the one after the occupied ones. -/
theorem Agrees.moveIn {cap pout : Nat} {v : Ring} (h : Agrees cap 0 pout v) (hin : v.inp < cap)
    (hw : Mem.read v.storage v.inp ≠ none) : Agrees cap 1 pout { v with inp := wrap cap v.inp } where
  balance := by
    have hnext : v.inp + 1 + pout ≡ wrap cap v.inp + pout [MOD cap] := by
      rw [wrap_eq_mod hin]; exact (Nat.mod_modEq _ _).symm.add_right _
    have hold : v.out + v.count.toNat + 1 ≡ v.inp + 1 + pout [MOD cap] := by
      rw [Nat.add_right_comm v.inp]; exact h.balance.add_right 1
    exact hold.trans hnext
  written k hk := by
    change k + pout < v.count.toNat + 1 at hk
    rcases (by omega : k + pout < v.count.toNat ∨ k + pout = v.count.toNat) with hk | hk
    · exact h.written k hk
    · have hslot : v.out + k ≡ v.inp [MOD cap] := by
        refine Nat.ModEq.add_right_cancel' pout ?_
        have hb := h.balance
        rw [← hk] at hb
        simpa [Nat.add_assoc] using hb
      have heq : (v.out + k) % cap = v.inp :=
        Nat.ModEq.eq_of_lt_of_lt ((Nat.mod_modEq _ _).trans hslot) (Nat.mod_lt _ (Nat.zero_lt_of_lt hin)) hin
      rw [heq]; exact hw

theorem toNat_add_one_of_lt {c : Word} {cap : Nat} (hcap : cap ≤ 65535) (h : c.toNat < cap) :
    (c + 1).toNat = c.toNat + 1 := by bv_omega

theorem toNat_sub_one_of_pos {c : Word} (h : 0 < c.toNat) : (c - 1).toNat = c.toNat - 1 := by bv_omega

theorem Agrees.countUp {cap pout : Nat} {v : Ring} (h : Agrees cap 1 pout v) (hcap : cap ≤ 65535)
    (hroom : v.count.toNat < cap) : Agrees cap 0 pout { v with count := v.count + 1 } := by
  have hc := toNat_add_one_of_lt hcap hroom
  refine ⟨?_, fun k hk => h.written k ?_⟩
  · change v.out + (v.count + 1).toNat + 0 ≡ v.inp + pout [MOD cap]
    rw [hc]; exact h.balance
  · change k + pout < (v.count + 1).toNat at hk
    rwa [hc] at hk

theorem Agrees.moveOut {cap pin : Nat} {v : Ring} (h : Agrees cap pin 0 v) (hout : v.out < cap) :
    Agrees cap pin 1 { v with out := wrap cap v.out } where
  balance := by
    have hnext : wrap cap v.out + (v.count.toNat + pin) ≡ v.out + 1 + (v.count.toNat + pin) [MOD cap] := by
      rw [wrap_eq_mod hout]; exact (Nat.mod_modEq _ _).add_right _
    have hold : v.out + 1 + (v.count.toNat + pin) ≡ v.inp + 1 [MOD cap] := by
      have hb := h.balance.add_right 1
      rwa [show v.out + v.count.toNat + pin + 1 = v.out + 1 + (v.count.toNat + pin) by omega] at hb
    rw [Nat.add_assoc]
    exact hnext.trans hold
  written k hk := by
    have hslot : wrap cap v.out + k ≡ v.out + (k + 1) [MOD cap] := by
      rw [wrap_eq_mod hout, Nat.add_comm k, ← Nat.add_assoc]; exact (Nat.mod_modEq _ _).add_right _
    rw [show (wrap cap v.out + k) % cap = (v.out + (k + 1)) % cap from hslot]
    exact h.written (k + 1) hk

theorem Agrees.countDown {cap pin : Nat} {v : Ring} (h : Agrees cap pin 1 v) (hpos : 0 < v.count.toNat) :
    Agrees cap pin 0 { v with count := v.count - 1 } := by
  have hc := toNat_sub_one_of_pos hpos
  refine ⟨Nat.ModEq.add_right_cancel' 1 ?_, fun k hk => h.written k ?_⟩
  · have hb := h.balance
    rwa [show v.out + v.count.toNat + pin = v.out + (v.count - 1).toNat + pin + 1 by omega] at hb
  · change k + 0 < (v.count - 1).toNat + pin at hk
    omega

theorem RingOk.write {cap : Nat} {v : Ring} (h : RingOk cap v) (b : Byte) :
    RingOk cap { v with storage := Mem.write v.storage v.inp b } :=
  { h with
    storageWf := Mem.wf_write _ _ h.storageWf
    slots := fun c hc => by
      rcases Mem.mem_write hc with rfl | hc
      · exact h.inpLt
      · exact h.slots c hc }

theorem RingOk.setIn {cap i : Nat} {v : Ring} (h : RingOk cap v) (hi : i < cap) : RingOk cap { v with inp := i } :=
  { h with inpLt := hi }

theorem RingOk.setOut {cap i : Nat} {v : Ring} (h : RingOk cap v) (hi : i < cap) : RingOk cap { v with out := i } :=
  { h with outLt := hi }

theorem RingOk.setCount {cap : Nat} {v : Ring} {c : Word} (h : RingOk cap v) (hc : c.toNat ≤ cap) :
    RingOk cap { v with count := c } :=
  { h with countLe := hc }

/-- The part MAIN plays on one ring, by the micro-step its operation has reached (R69 to R72, R101). -/
inductive Role where
  /-- MAIN is not part-way through a change of the ring. -/
  | free
  /-- At I1: a test has found room. -/
  | room
  /-- At I2: the slot is written. -/
  | wrote
  /-- At I3: `in` has moved and `count` has not. -/
  | movedIn
  /-- At X1 or X2: a test has found a byte. -/
  | byte
  /-- At X3: `out` has moved and `count` has not. -/
  | movedOut
  /-- Init: `in` is zeroed. -/
  | zeroedIn
  /-- Init: `in` and `out` are zeroed, `count` is not. -/
  | zeroedOut

/-- The roles in which MAIN is a writer of `in` or of a slot. -/
def Role.ownsIn : Role → Prop
  | .room | .wrote | .movedIn | .zeroedIn | .zeroedOut => True
  | .free | .byte | .movedOut => False

/-- The roles in which MAIN is a writer of `out`. -/
def Role.ownsOut : Role → Prop
  | .byte | .movedOut | .zeroedIn | .zeroedOut => True
  | .free | .room | .wrote | .movedIn => False

/-- What holds of the ring while MAIN plays the role. -/
def RoleOk (cap : Nat) (v : Ring) : Role → Prop
  | .free => Agrees cap 0 0 v
  | .room => Agrees cap 0 0 v ∧ v.count.toNat < cap
  | .wrote => Agrees cap 0 0 v ∧ v.count.toNat < cap ∧ Mem.read v.storage v.inp ≠ none
  | .movedIn => Agrees cap 1 0 v ∧ v.count.toNat < cap
  | .byte => Agrees cap 0 0 v ∧ 0 < v.count.toNat
  | .movedOut => Agrees cap 0 1 v ∧ 0 < v.count.toNat
  | .zeroedIn => v.inp = 0
  | .zeroedOut => v.inp = 0 ∧ v.out = 0

/-- All that one micro-step of MAIN can do to a ring, with MAIN's role before and after it. -/
inductive RingMove (cap : Nat) : Role → Ring → Role → Ring → Prop where
  | keep (ρ : Role) (v : Ring) : RingMove cap ρ v ρ v
  | findRoom (v : Ring) (h : v.count.toNat ≠ cap) : RingMove cap .free v .room v
  | findByte (v : Ring) (h : v.count ≠ 0) : RingMove cap .free v .byte v
  | write (v : Ring) (b : Byte) : RingMove cap .room v .wrote { v with storage := Mem.write v.storage v.inp b }
  | moveIn (v : Ring) : RingMove cap .wrote v .movedIn { v with inp := wrap cap v.inp }
  | countUp (v : Ring) : RingMove cap .movedIn v .free { v with count := v.count + 1 }
  | moveOut (v : Ring) : RingMove cap .byte v .movedOut { v with out := wrap cap v.out }
  | countDown (v : Ring) : RingMove cap .movedOut v .free { v with count := v.count - 1 }
  | zeroIn (v : Ring) : RingMove cap .free v .zeroedIn { v with inp := 0 }
  | zeroOut (v : Ring) : RingMove cap .zeroedIn v .zeroedOut { v with out := 0 }
  | zeroCount (v : Ring) : RingMove cap .zeroedOut v .free { v with count := 0 }
  | mark (v : Ring) : RingMove cap .free v .free { v with initialized := true }

theorem RingMove.initialized_kept {cap : Nat} {ρ ρ' : Role} {v v' : Ring} (m : RingMove cap ρ v ρ' v')
    (h : v.initialized = true) : v'.initialized = true := by
  cases m with
  | mark => rfl
  | _ => exact h

/-- Every move of MAIN keeps what its role promises of the ring (R72). -/
theorem RingMove.keeps {cap : Nat} {ρ ρ' : Role} {v v' : Ring} (m : RingMove cap ρ v ρ' v') (hcap : cap ≤ 65535)
    (hok : RingOk cap v) (hrole : RoleOk cap v ρ) : RingOk cap v' ∧ RoleOk cap v' ρ' := by
  have hpos : 0 < cap := Nat.zero_lt_of_lt hok.inpLt
  cases m with
  | keep => exact ⟨hok, hrole⟩
  | findRoom _ hne => exact ⟨hok, hrole, lt_of_le_of_ne hok.countLe hne⟩
  | findByte _ hne => exact ⟨hok, hrole, by bv_omega⟩
  | write _ b =>
    obtain ⟨hag, hroom⟩ := hrole
    exact ⟨hok.write b, hag.write _ b, hroom, by simp⟩
  | moveIn =>
    obtain ⟨hag, hroom, hw⟩ := hrole
    exact ⟨hok.setIn (wrap_lt hok.inpLt), hag.moveIn hok.inpLt hw, hroom⟩
  | countUp =>
    obtain ⟨hag, hroom⟩ := hrole
    exact ⟨hok.setCount (by rw [toNat_add_one_of_lt hcap hroom]; exact hroom), hag.countUp hcap hroom⟩
  | moveOut =>
    obtain ⟨hag, hbyte⟩ := hrole
    exact ⟨hok.setOut (wrap_lt hok.outLt), hag.moveOut hok.outLt, hbyte⟩
  | countDown =>
    obtain ⟨hag, hbyte⟩ := hrole
    have hle : (v.count - 1).toNat ≤ cap := by
      rw [toNat_sub_one_of_pos hbyte]; exact (Nat.sub_le _ _).trans hok.countLe
    exact ⟨hok.setCount hle, hag.countDown hbyte⟩
  | zeroIn => exact ⟨hok.setIn hpos, rfl⟩
  | zeroOut => exact ⟨hok.setOut hpos, hrole, rfl⟩
  | zeroCount =>
    obtain ⟨hin, hout⟩ := hrole
    exact ⟨hok.setCount (Nat.zero_le _), ⟨by simp [hin, hout, Nat.ModEq.rfl], fun k hk => by simp at hk⟩⟩
  | mark => exact ⟨{ hok with }, ⟨hrole.balance, hrole.written⟩⟩

/-- What the receive event does to a ring with room (R142). -/
def Ring.push (cap : Nat) (v : Ring) (b : Byte) : Ring :=
  { v with storage := Mem.write v.storage v.inp b, inp := wrap cap v.inp, count := v.count + 1 }

/-- What the transmit-ready event does to a ring with a byte (R144). -/
def Ring.pop (cap : Nat) (v : Ring) : Ring := { v with out := wrap cap v.out, count := v.count - 1 }

theorem Agrees.push {cap pout : Nat} {v : Ring} (h : Agrees cap 0 pout v) (hok : RingOk cap v) (hcap : cap ≤ 65535)
    (hroom : v.count.toNat < cap) (b : Byte) : Agrees cap 0 pout (v.push cap b) :=
  ((h.write v.inp b).moveIn hok.inpLt (by simp)).countUp hcap hroom

theorem Agrees.pop {cap pin : Nat} {v : Ring} (h : Agrees cap pin 0 v) (hok : RingOk cap v) (hpos : 0 < v.count.toNat) :
    Agrees cap pin 0 (v.pop cap) :=
  (h.moveOut hok.outLt).countDown hpos

/-- A store by the receive event keeps what MAIN's role promises, while MAIN is no writer of `in` (R72). -/
theorem RoleOk.push {cap : Nat} {v : Ring} {ρ : Role} (hok : RingOk cap v) (h : RoleOk cap v ρ) (hρ : ¬ ρ.ownsIn)
    (hcap : cap ≤ 65535) (hroom : v.count.toNat < cap) (b : Byte) :
    RingOk cap (v.push cap b) ∧ RoleOk cap (v.push cap b) ρ := by
  have hc : (v.push cap b).count.toNat = v.count.toNat + 1 := toNat_add_one_of_lt hcap hroom
  have hring : RingOk cap (v.push cap b) :=
    ((hok.write b).setIn (wrap_lt hok.inpLt)).setCount (by rw [toNat_add_one_of_lt hcap hroom]; exact hroom)
  refine ⟨hring, ?_⟩
  cases ρ with
  | free => exact Agrees.push h hok hcap hroom b
  | byte => exact ⟨h.1.push hok hcap hroom b, by omega⟩
  | movedOut => exact ⟨h.1.push hok hcap hroom b, by omega⟩
  | room | wrote | movedIn | zeroedIn | zeroedOut => exact absurd trivial hρ

/-- A removal by the transmit-ready event keeps what MAIN's role promises, while MAIN is no writer of `out` (R72). -/
theorem RoleOk.pop {cap : Nat} {v : Ring} {ρ : Role} (hok : RingOk cap v) (h : RoleOk cap v ρ) (hρ : ¬ ρ.ownsOut)
    (hpos : 0 < v.count.toNat) : RingOk cap (v.pop cap) ∧ RoleOk cap (v.pop cap) ρ := by
  have hc : (v.pop cap).count.toNat = v.count.toNat - 1 := toNat_sub_one_of_pos hpos
  have hle := hok.countLe
  have hring : RingOk cap (v.pop cap) :=
    (hok.setOut (wrap_lt hok.outLt)).setCount (by change (v.pop cap).count.toNat ≤ cap; omega)
  refine ⟨hring, ?_⟩
  cases ρ with
  | free => exact Agrees.pop h hok hpos
  | room => exact ⟨h.1.pop hok hpos, by omega⟩
  | wrote => obtain ⟨hag, _, hw⟩ := h; exact ⟨hag.pop hok hpos, by omega, hw⟩
  | movedIn => exact ⟨h.1.pop hok hpos, by omega⟩
  | byte | movedOut | zeroedIn | zeroedOut => exact absurd trivial hρ

end Sys2Proof.Machine
end

section
/-! MAIN's role on each ring of a state, and the invariant of the rings in terms of it. -/

namespace Sys2Proof.Machine

/-- The role on ring `r` that operation `op` gives MAIN at a micro-step (R110). -/
def roleAt (op : Option Instr) (r : RingId) : Phase → Role
  | .i1 => if op.bind insertsInto = some r then .room else .free
  | .i2 => if op.bind insertsInto = some r then .wrote else .free
  | .i3 => if op.bind insertsInto = some r then .movedIn else .free
  | .x1 | .x2 => if op.bind removesFrom = some r then .byte else .free
  | .x3 => if op.bind removesFrom = some r then .movedOut else .free
  | .initOut q => if q = r then .zeroedIn else .free
  | .initCount q => if q = r then .zeroedOut else .free
  | _ => .free

/-- MAIN's role on ring `r`. -/
def State.role (s : State) (r : RingId) : Role := roleAt s.main.op r s.main.phase

theorem State.role_congr {s t : State} (h : t.main = s.main) (r : RingId) : t.role r = s.role r := by
  rw [State.role, State.role, h]

theorem State.role_of_idle {s : State} (h : s.main = MainSeq.idle) (r : RingId) : s.role r = .free := by
  rw [State.role, h]; rfl

theorem State.cap_le (s : State) (r : RingId) : s.cap r ≤ 65535 := by
  cases r
  · exact s.cfg.nRx.le
  · exact s.cfg.nTx.le

theorem State.cap_congr {s t : State} (h : t.cfg = s.cfg) (r : RingId) : t.cap r = s.cap r := by
  cases r <;> simp only [State.cap, h]

/-- A ring is in order for the role MAIN plays on it. -/
structure RingInv (s : State) (r : RingId) : Prop where
  ok : RingOk (s.cap r) (s.ring r)
  role : RoleOk (s.cap r) (s.ring r) (s.role r)

/-- The three clauses of the invariant that relate a ring to MAIN's progress say what the role says. -/
theorem roleOk_iff (s : State) (r : RingId) :
    RoleOk (s.cap r) (s.ring r) (s.role r) ↔
      (¬ s.midInit r → RingAgrees s r) ∧ ContractKept s r ∧
        (s.midInit r → (s.ring r).inp = 0) ∧ (s.main.phase = .initCount r → (s.ring r).out = 0) := by
  have hagrees : RingAgrees s r ↔ Agrees (s.cap r) (s.pendIn r) (s.pendOut r) (s.ring r) :=
    ⟨fun h => ⟨h.1, h.2⟩, fun h => ⟨h.balance, h.written⟩⟩
  rw [hagrees]
  unfold State.role roleAt
  split
  case h_9 => simp_all [RoleOk, ContractKept, State.pendIn, State.pendOut, State.slot, State.midInit]
  all_goals
    split_ifs <;> simp_all [RoleOk, ContractKept, State.pendIn, State.pendOut, State.slot, State.midInit]

theorem Inv.ringInv {s : State} (h : Inv s) (r : RingId) : RingInv s r :=
  ⟨h.ringOk r, (roleOk_iff s r).mpr ⟨h.agrees r, h.contract r, h.midInitOk r⟩⟩

end Sys2Proof.Machine
end

section
/-! What one micro-step of a command in progress can do: to the rings, to MAIN's sequencing and to the registers. -/

namespace Sys2Proof.Machine

/-- What `MainOk` asks of the micro-step reached, beyond its belonging to the operation (R121, R164, R169). -/
def Ready (i : Instr) (s : State) : Prop :=
  (i = .laDispatch → s.main.phase ≠ .route → s.main.phase ≠ .assign → s.main.phase ≠ .done → s.main.toSend ≠ []) ∧
  (i = .laPoll → s.main.phase = .storeIdx → s.client.widx < lineCap - 1) ∧
  (∀ sel, i = .stInit sel →
    (s.main.phase ≠ .cfgMark → s.xport.rxIe = false) ∧
    ∀ r, pastInit r s.main.phase = true → (s.ring r).initialized = true)

/-- What any micro-step leaves of the registers, the line and the outputs. A field's default proof is that nothing was written. -/
structure Registers (s t : State) : Prop where
  cfg : t.cfg = s.cfg := by simp
  inIrq : t.ctx.inIrq = s.ctx.inIrq := by simp
  critSaved : t.ctx.critSaved = s.ctx.critSaved := by simp
  faults : t.faults = s.faults ∨
    (t.main = MainSeq.idle ∧ ∃ c, c ≠ .ok ∧ c ≠ .config ∧ t.faults = s.faults.record c) := by simp
  rxStatus : t.xport.rxStatus = s.xport.rxStatus ∨ t.xport.rxStatus = .idleEmpty := by simp
  txStatus : t.xport.txStatus = s.xport.txStatus ∨ t.xport.txStatus = .idleEmpty := by simp
  rxIe : t.xport.rxIe = true ↔ s.xport.rxIe = true ∨ s.main.phase = .cfgRxIe := by simp [*]
  mark : s.main.phase = .cfgRxIe → t.main.phase = .cfgMark := by simp [*]
  txIe : t.xport.txIe = true → s.xport.txIe = true ∨ s.main.phase = .w2 := by exact fun h => .inl (by simpa using h)
  initialized : t.xport.initialized = true ↔ s.xport.initialized = true ∨ s.main.phase = .cfgMark := by simp [*]
  done : s.main.phase = .cfgMark → t.main = MainSeq.idle := by simp [*]
  lineOn : s.line.on = true → t.line.on = true := by simp
  rxPending : t.line.rxPending = true → s.line.rxPending = true := by simp
  wireOut : t.outputs.wireOut = s.outputs.wireOut := by simp
  rsp : s.outputs.rsp <+: t.outputs.rsp := by simp

/-- `t` is a state that a micro-step of `i` may leave from `s`. -/
structure Micro (i : Instr) (s t : State) : Prop extends Registers s t where
  rings : ∀ r, RingMove (s.cap r) (s.role r) (s.ring r) (t.role r) (t.ring r)
  main : t.main = MainSeq.idle ∨
    (t.main.op = some i ∧ Instr.hasPhase i t.main.phase = true ∧ (Ready i s → Ready i t))
  widx : Ready i s → s.client.widx ≤ lineCap - 1 → t.client.widx ≤ lineCap - 1 := by exact fun _ h => by simpa using h

/-- The micro-steps that only read and test: MAIN has no role on a ring and writes no register (R110, R162, R167). -/
def Phase.isTest : Phase → Bool
  | .single | .i0 | .x0 | .f1 | .w1 | .g1 | .t1 | .p1 | .route => true
  | _ => false

/-- How a micro-step ends that leaves MAIN no role: at another such micro-step of the command, or with its return. -/
inductive Leaves (i : Instr) (s : State) : State → Prop where
  | goto (ph : Phase) (hp : Instr.hasPhase i ph = true) (hfree : ∀ r, roleAt (some i) r ph = .free)
      (hready : Ready i s → Ready i (goto ph s)) : Leaves i s (goto ph s)
  | ret (v : Word) : Leaves i s (ret v s)

section
variable {i : Instr} {r : RingId} {s t : State}

theorem role_eq {ph : Phase} (hop : s.main.op = some i) (hph : s.main.phase = ph) (r : RingId) :
    s.role r = roleAt (some i) r ph := by rw [State.role, hop, hph]

theorem role_of_isTest (h : s.main.phase.isTest = true) (r : RingId) : s.role r = .free := by
  unfold State.role roleAt
  split <;> simp_all [Phase.isTest]

theorem not_cfgRxIe_of_isTest (h : s.main.phase.isTest = true) : s.main.phase ≠ .cfgRxIe := by
  rintro hp; simp [hp, Phase.isTest] at h

theorem not_cfgMark_of_isTest (h : s.main.phase.isTest = true) : s.main.phase ≠ .cfgMark := by
  rintro hp; simp [hp, Phase.isTest] at h

/-- A micro-step that changes no ring and starts and ends with no role. -/
theorem ringMoves_of_free (hs : ∀ q, s.role q = .free) (ht : ∀ q, t.role q = .free) (hring : ∀ q, t.ring q = s.ring q)
    (r : RingId) :
    RingMove (s.cap r) (s.role r) (s.ring r) (t.role r) (t.ring r) := by
  rw [hs, ht, hring]; exact .keep _ _

/-- A micro-step on ring `r` of an operation that has no role on the other ring. -/
theorem ringMoves_at (r : RingId) (hs : ∀ q, q ≠ r → s.role q = .free) (ht : ∀ q, q ≠ r → t.role q = .free)
    (hring : ∀ q, q ≠ r → t.ring q = s.ring q)
    (hmv : RingMove (s.cap r) (s.role r) (s.ring r) (t.role r) (t.ring r)) (q : RingId) :
    RingMove (s.cap q) (s.role q) (s.ring q) (t.role q) (t.ring q) := by
  by_cases hq : q = r
  · rw [hq]; exact hmv
  · rw [hs q hq, ht q hq, hring q hq]; exact .keep _ _

theorem hasPhase_of_insertsInto (h : insertsInto i = some r) :
    Instr.hasPhase i .i1 = true ∧ Instr.hasPhase i .i2 = true ∧ Instr.hasPhase i .i3 = true := by
  cases i <;> simp_all [insertsInto, Instr.hasPhase]

theorem hasPhase_of_removesFrom (h : removesFrom i = some r) :
    Instr.hasPhase i .x1 = true ∧ Instr.hasPhase i .x2 = true ∧ Instr.hasPhase i .x3 = true := by
  cases i <;> simp_all [removesFrom, Instr.hasPhase]

/-- Inside an insertion the bytes still to send stay. -/
theorem Ready.of_inserting (hi : insertsInto i = some r)
    (hph : i = .laDispatch → s.main.phase ≠ .route ∧ s.main.phase ≠ .assign ∧ s.main.phase ≠ .done)
    (hsend : t.main.toSend = s.main.toSend) (h : Ready i s) : Ready i t := by
  obtain ⟨hdisp, -, -⟩ := h
  refine ⟨fun he _ _ _ => ?_, fun he => ?_, fun sel he => ?_⟩
  · obtain ⟨h1, h2, h3⟩ := hph he
    rw [hsend]; exact hdisp he h1 h2 h3
  · subst he; simp [insertsInto] at hi
  · subst he; simp [insertsInto] at hi

theorem Ready.of_removing (hi : removesFrom i = some r) (hph : t.main.phase ≠ .storeIdx) : Ready i t := by
  refine ⟨fun he => ?_, fun _ hp => absurd hp hph, fun sel he => ?_⟩
  · subst he; simp [removesFrom] at hi
  · subst he; simp [removesFrom] at hi

/-! The micro-steps that several commands share. -/

/-- A micro-step that writes ring `r` alone and goes on at micro-step `ph`. -/
theorem micro_goto_setRing {v : Ring} {ph : Phase} (hop : s.main.op = some i) (hs : ∀ q, q ≠ r → s.role q = .free)
    (ht : ∀ q, q ≠ r → roleAt (some i) q ph = .free) (hrxIe : s.main.phase ≠ .cfgRxIe) (hmark : s.main.phase ≠ .cfgMark)
    (hp : Instr.hasPhase i ph = true) (hready : Ready i s → Ready i (goto ph (s.setRing r v)))
    (hmv : RingMove (s.cap r) (s.role r) (s.ring r) (roleAt (some i) r ph) v) : Micro i s (goto ph (s.setRing r v)) := by
  have hrole (q : RingId) : (goto ph (s.setRing r v)).role q = roleAt (some i) q ph :=
    role_eq (by simpa using hop) (by simp) q
  have hring : (goto ph (s.setRing r v)).ring r = v := State.setRing_ring_self s r v
  exact {
    rings := ringMoves_at r hs (fun q hq => (hrole q).trans (ht q hq)) (fun q hq => State.setRing_ring_ne s v hq)
      (by rw [hrole, hring]; exact hmv)
    main := .inr ⟨by simpa using hop, hp, hready⟩ }

/-- A micro-step that writes ring `r` alone and leaves MAIN no role. -/
theorem Leaves.micro_setRing {v : Ring} (h : Leaves i (s.setRing r v) t) (hop : s.main.op = some i)
    (hs : ∀ q, q ≠ r → s.role q = .free) (hrxIe : s.main.phase ≠ .cfgRxIe) (hmark : s.main.phase ≠ .cfgMark)
    (hready : Ready i s → Ready i (s.setRing r v)) (hmv : RingMove (s.cap r) (s.role r) (s.ring r) .free v) : Micro i s t := by
  cases h with
  | goto ph hp hfree hgoto =>
    exact micro_goto_setRing hop hs (fun q _ => hfree q) hrxIe hmark hp (hgoto ∘ hready) (by rw [hfree]; exact hmv)
  | ret w =>
    have hring : (Machine.ret w (s.setRing r v)).ring r = v := State.setRing_ring_self s r v
    exact {
      rings := ringMoves_at r hs (fun q _ => State.role_of_idle rfl q) (fun q hq => State.setRing_ring_ne s v hq)
        (by rw [hring, State.role_of_idle (s := Machine.ret w _) rfl]; exact hmv)
      main := .inl rfl }

/-- A micro-step that reads, tests or waits and leaves MAIN no role. -/
theorem Leaves.micro (h : Leaves i s t) (hop : s.main.op = some i) (hph : s.main.phase.isTest = true) : Micro i s t := by
  have hfree := role_of_isTest hph
  rw [← State.setRing_self s .rx] at h
  refine h.micro_setRing hop (fun q _ => hfree q) (not_cfgRxIe_of_isTest hph) (not_cfgMark_of_isTest hph) ?_ ?_
  · rw [State.setRing_self]; exact id
  · rw [hfree]; exact .keep _ _

/-- A test that finds a contract broken (R103, R105, R164). -/
theorem micro_raise {c : ResultCode} (hok : c ≠ .ok) (hconfig : c ≠ .config) (hfree : ∀ q, s.role q = .free)
    (hrxIe : s.main.phase ≠ .cfgRxIe) (hmark : s.main.phase ≠ .cfgMark) : Micro i s (raise c s) where
  rings := ringMoves_of_free hfree (State.role_of_idle rfl) (fun q => by cases q <;> rfl)
  main := .inl rfl
  faults := .inr ⟨rfl, c, hok, hconfig, rfl⟩

/-- I0 or W1 finds room (R103, R124). -/
theorem micro_findRoom (hop : s.main.op = some i) (hi : insertsInto i = some r) (hph : s.main.phase.isTest = true)
    (hroute : i = .laDispatch → s.main.phase ≠ .route) (hc : (s.ring r).count.toNat ≠ s.cap r) : Micro i s (goto .i1 s) := by
  have hne (he : i = .laDispatch) : s.main.phase ≠ .route ∧ s.main.phase ≠ .assign ∧ s.main.phase ≠ .done :=
    ⟨hroute he, fun h => by simp [h, Phase.isTest] at hph, fun h => by simp [h, Phase.isTest] at hph⟩
  suffices h : Micro i s (goto .i1 (s.setRing r (s.ring r))) by rwa [State.setRing_self] at h
  refine micro_goto_setRing hop (fun q _ => role_of_isTest hph q) (fun q hq => ?_)
    (not_cfgRxIe_of_isTest hph) (not_cfgMark_of_isTest hph) (hasPhase_of_insertsInto hi).1 ?_ ?_
  · simp [roleAt, hi, Ne.symm hq]
  · exact Ready.of_inserting hi hne (by simp)
  · rw [role_of_isTest hph]; simpa [roleAt, hi] using .findRoom _ hc

/-- X0, F1, G1 or P1 finds a byte (R105, R109, R127, R162). -/
theorem micro_findByte (hop : s.main.op = some i) (hi : removesFrom i = some r) (hph : s.main.phase.isTest = true)
    (hc : (s.ring r).count ≠ 0) : Micro i s (goto .x1 s) := by
  suffices h : Micro i s (goto .x1 (s.setRing r (s.ring r))) by rwa [State.setRing_self] at h
  refine micro_goto_setRing hop (fun q _ => role_of_isTest hph q) (fun q hq => ?_)
    (not_cfgRxIe_of_isTest hph) (not_cfgMark_of_isTest hph) (hasPhase_of_removesFrom hi).1 ?_ ?_
  · simp [roleAt, hi, Ne.symm hq]
  · exact fun _ => Ready.of_removing hi (by simp)
  · rw [role_of_isTest hph]; simpa [roleAt, hi] using .findByte _ hc

/-- I1 (R110). -/
theorem micro_stepI1 {b : Byte} (hop : s.main.op = some i) (hi : insertsInto i = some r) (hph : s.main.phase = .i1)
    (h : stepI1 r b s = .next t) : Micro i s t := by
  obtain ⟨-, rfl⟩ := stepI1_inv h
  refine micro_goto_setRing hop (fun q hq => ?_) (fun q hq => ?_) (by simp [hph]) (by simp [hph])
    (hasPhase_of_insertsInto hi).2.1 (Ready.of_inserting hi (by simp [hph]) (by simp)) ?_
  · simp [role_eq hop hph, roleAt, hi, Ne.symm hq]
  · simp [roleAt, hi, Ne.symm hq]
  · simpa [role_eq hop hph, roleAt, hi] using .write _ b

/-- I2 (R110). -/
theorem micro_stepI2 (hop : s.main.op = some i) (hi : insertsInto i = some r) (hph : s.main.phase = .i2)
    (h : stepI2 r s = .next t) : Micro i s t := by
  cases h
  refine micro_goto_setRing hop (fun q hq => ?_) (fun q hq => ?_) (by simp [hph]) (by simp [hph])
    (hasPhase_of_insertsInto hi).2.2 (Ready.of_inserting hi (by simp [hph]) (by simp)) ?_
  · simp [role_eq hop hph, roleAt, hi, Ne.symm hq]
  · simp [roleAt, hi, Ne.symm hq]
  · simpa [role_eq hop hph, roleAt, hi] using .moveIn _

/-- I3 (R110), before the operation leaves the insertion. -/
theorem micro_stepI3 {k : State → State} (hop : s.main.op = some i) (hi : insertsInto i = some r) (hph : s.main.phase = .i3)
    (hk : Leaves i (countUp r s) (k (countUp r s))) (h : stepI3 r k s = .next t) : Micro i s t := by
  rw [stepI3, atomically_countUp] at h
  cases h
  refine Leaves.micro_setRing hk hop (fun q hq => ?_) (by simp [hph]) (by simp [hph])
    (Ready.of_inserting hi (by simp [hph]) (by simp)) ?_
  · simp [role_eq hop hph, roleAt, hi, Ne.symm hq]
  · simpa [role_eq hop hph, roleAt, hi] using .countUp _

/-- X1 (R110). -/
theorem micro_stepX1 (hop : s.main.op = some i) (hi : removesFrom i = some r) (hph : s.main.phase = .x1)
    (h : stepX1 r s = .next t) : Micro i s t := by
  obtain ⟨-, b, d, rfl, -⟩ := stepX1_inv h
  exact {
    rings := fun q => by
      rw [role_eq hop hph, role_eq (i := i) (ph := .x2) (by exact hop) rfl]
      cases q <;> exact .keep _ _
    main := .inr ⟨hop, (hasPhase_of_removesFrom hi).2.1, fun _ => Ready.of_removing hi (by simp)⟩ }

/-- X2 (R110). -/
theorem micro_stepX2 (hop : s.main.op = some i) (hi : removesFrom i = some r) (hph : s.main.phase = .x2)
    (h : stepX2 r s = .next t) : Micro i s t := by
  cases h
  refine micro_goto_setRing hop (fun q hq => ?_) (fun q hq => ?_) (by simp [hph]) (by simp [hph])
    (hasPhase_of_removesFrom hi).2.2 (fun _ => Ready.of_removing hi (by simp)) ?_
  · simp [role_eq hop hph, roleAt, hi, Ne.symm hq]
  · simp [roleAt, hi, Ne.symm hq]
  · simpa [role_eq hop hph, roleAt, hi] using .moveOut _

/-- X3 (R110), before the operation leaves the removal. -/
theorem micro_stepX3 {k : State → State} (hop : s.main.op = some i) (hi : removesFrom i = some r) (hph : s.main.phase = .x3)
    (hk : Leaves i (countDown r s) (k (countDown r s))) (h : stepX3 r k s = .next t) : Micro i s t := by
  rw [stepX3, atomically_countDown] at h
  cases h
  refine Leaves.micro_setRing hk hop (fun q hq => ?_) (by simp [hph]) (by simp [hph])
    (fun _ => Ready.of_removing hi (by simp [hph])) ?_
  · simp [role_eq hop hph, roleAt, hi, Ne.symm hq]
  · simpa [role_eq hop hph, roleAt, hi] using .countDown _

/-- W1 (R124). -/
theorem micro_stepW1 (hop : s.main.op = some i) (hi : insertsInto i = some .tx) (hph : s.main.phase = .w1)
    (hp : Instr.hasPhase i .w1 = true) (h : stepW1 s = .next t) : Micro i s t := by
  have htest : s.main.phase.isTest = true := by simp [hph, Phase.isTest]
  simp only [stepW1, atomicCount_eq] at h
  split at h
  · cases h
    have hstay : s = goto .w1 s := by rw [← hph]; rfl
    exact Leaves.micro (hstay ▸ .goto .w1 hp (fun _ => rfl) (hstay ▸ id)) hop htest
  · rename_i hc
    cases h
    exact micro_findRoom hop hi htest (by simp [hph]) hc

/-! The first three lines of R101, in `RB_INIT` and in `ST_INIT`. -/

theorem micro_initIn (hop : s.main.op = some i) (hph : s.main.phase = .initIn r) (hp : Instr.hasPhase i (.initOut r) = true)
    (hready : Ready i s → Ready i (goto (.initOut r) (initInStep r s))) : Micro i s (goto (.initOut r) (initInStep r s)) := by
  refine micro_goto_setRing hop (fun q hq => ?_) (fun q hq => ?_) (by simp [hph]) (by simp [hph]) hp hready ?_
  · simp [role_eq hop hph, roleAt]
  · simp [roleAt, Ne.symm hq]
  · simpa [role_eq hop hph, roleAt] using .zeroIn _

theorem micro_initOut (hop : s.main.op = some i) (hph : s.main.phase = .initOut r) (hp : Instr.hasPhase i (.initCount r) = true)
    (hready : Ready i s → Ready i (goto (.initCount r) (initOutStep r s))) :
    Micro i s (goto (.initCount r) (initOutStep r s)) := by
  refine micro_goto_setRing hop (fun q hq => ?_) (fun q hq => ?_) (by simp [hph]) (by simp [hph]) hp hready ?_
  · simp [role_eq hop hph, roleAt, Ne.symm hq]
  · simp [roleAt, Ne.symm hq]
  · simpa [role_eq hop hph, roleAt] using .zeroOut _

theorem micro_initCount (hop : s.main.op = some i) (hph : s.main.phase = .initCount r)
    (hp : Instr.hasPhase i (.initMark r) = true)
    (hready : Ready i s → Ready i (goto (.initMark r) (initCountStep r s))) :
    Micro i s (goto (.initMark r) (initCountStep r s)) := by
  rw [initCountStep_eq] at hready ⊢
  refine micro_goto_setRing hop (fun q hq => ?_) (fun q hq => ?_) (by simp [hph]) (by simp [hph]) hp hready ?_
  · simp [role_eq hop hph, roleAt, Ne.symm hq]
  · simp [roleAt]
  · simpa [role_eq hop hph, roleAt] using .zeroCount _

theorem micro_initMark (hop : s.main.op = some i) (hph : s.main.phase = .initMark r)
    (hready : Ready i s → Ready i (initMarkStep r s)) (h : Leaves i (initMarkStep r s) t) : Micro i s t := by
  refine Leaves.micro_setRing h hop (fun q hq => ?_) (by simp [hph]) (by simp [hph]) hready ?_
  · simp [role_eq hop hph, roleAt]
  · simpa [role_eq hop hph, roleAt] using .mark _

end
end Sys2Proof.Machine
end

section
/-! Each micro-step of each command is one that `Micro` allows (R101 to R109, R121 to R130, R162 to R171). -/

namespace Sys2Proof.Machine

section
variable {i : Instr} {r : RingId} {s t : State}

theorem roleAt_of_isTest {ph : Phase} (h : ph.isTest = true) (op : Option Instr) (r : RingId) : roleAt op r ph = .free := by
  unfold roleAt
  split <;> simp_all [Phase.isTest]

/-- A micro-step that waits leaves the state as it is (R124, R129). -/
theorem Leaves.stay (hp : Instr.hasPhase i s.main.phase = true) (htest : s.main.phase.isTest = true) : Leaves i s s :=
  .goto s.main.phase hp (roleAt_of_isTest htest _) id

/-- A micro-step that changes no ring, with no role before it or after it. -/
theorem ringMoves_of_goto {u : State} {ph ph' : Phase} (hop : s.main.op = some i) (hph : s.main.phase = ph)
    (hs : ∀ q, roleAt (some i) q ph = .free) (ht : ∀ q, roleAt (some i) q ph' = .free) (hop' : u.main.op = s.main.op)
    (hrx : u.rx = s.rx) (htx : u.tx = s.tx) (q : RingId) :
    RingMove (s.cap q) (s.role q) (s.ring q) ((goto ph' u).role q) ((goto ph' u).ring q) := by
  refine ringMoves_of_free (fun q => (role_eq hop hph q).trans (hs q)) (fun q => ?_) (fun q => ?_) q
  · exact (role_eq (s := goto ph' u) (hop'.trans hop) rfl q).trans (ht q)
  · cases q
    · exact hrx
    · exact htx

/-- The last micro-step of an operation that changes no ring and has no role. -/
theorem ringMoves_of_end {ph : Phase} (hop : s.main.op = some i) (hph : s.main.phase = ph)
    (hs : ∀ q, roleAt (some i) q ph = .free) (ht : t.main = MainSeq.idle) (hrx : t.rx = s.rx) (htx : t.tx = s.tx) (q : RingId) :
    RingMove (s.cap q) (s.role q) (s.ring q) (t.role q) (t.ring q) := by
  refine ringMoves_of_free (fun q => (role_eq hop hph q).trans (hs q)) (State.role_of_idle ht) (fun q => ?_) q
  cases q
  · exact hrx
  · exact htx

/-- `ST_INIT` goes on: of what it has promised, only the mark of a ring it has just set is new (R121). -/
theorem Ready.stInit_next {sel : Byte} (hs : s.main.phase ≠ .cfgMark)
    (hrxIe : t.main.phase ≠ .cfgMark → t.xport.rxIe = s.xport.rxIe)
    (hring : ∀ q, (s.ring q).initialized = true → (t.ring q).initialized = true)
    (hpast : ∀ q, pastInit q t.main.phase = true → pastInit q s.main.phase = true ∨ (t.ring q).initialized = true)
    (h : Ready (.stInit sel) s) : Ready (.stInit sel) t := by
  obtain ⟨-, -, hst⟩ := h
  obtain ⟨hoff, hinit⟩ := hst sel rfl
  refine ⟨nofun, nofun, fun _ _ => ⟨fun ht => (hrxIe ht).trans (hoff hs), fun q hq => ?_⟩⟩
  rcases hpast q hq with hq | hq
  · exact hring q (hinit q hq)
  · exact hq

theorem micro_rbInit (hop : s.main.op = some (.rbInit r)) (hp : Instr.hasPhase (.rbInit r) s.main.phase = true)
    (h : microRbInit r s = .next t) : Micro (.rbInit r) s t := by
  cases hph : s.main.phase with
  | initIn q =>
    obtain rfl : q = r := by simpa [Instr.hasPhase, hph] using hp
    simp only [microRbInit, hph] at h
    cases h
    exact micro_initIn hop hph (by simp [Instr.hasPhase]) (by simp [Ready])
  | initOut q =>
    obtain rfl : q = r := by simpa [Instr.hasPhase, hph] using hp
    simp only [microRbInit, hph] at h
    cases h
    exact micro_initOut hop hph (by simp [Instr.hasPhase]) (by simp [Ready])
  | initCount q =>
    obtain rfl : q = r := by simpa [Instr.hasPhase, hph] using hp
    simp only [microRbInit, hph] at h
    cases h
    exact micro_initCount hop hph (by simp [Instr.hasPhase]) (by simp [Ready])
  | initMark q =>
    obtain rfl : q = r := by simpa [Instr.hasPhase, hph] using hp
    simp only [microRbInit, hph] at h
    cases h
    exact micro_initMark hop hph (by simp [Ready]) (.ret 0)
  | _ => simp [Instr.hasPhase, hph] at hp

theorem micro_rbInsert {b : Byte} (hop : s.main.op = some (.rbInsert r b))
    (hp : Instr.hasPhase (.rbInsert r b) s.main.phase = true) (h : microRbInsert r b s = .next t) :
    Micro (.rbInsert r b) s t := by
  cases hph : s.main.phase with
  | i0 =>
    simp only [microRbInsert, hph, atomicCount_eq] at h
    cases h
    split
    · exact micro_raise (by simp) (by simp) (fun q => role_eq hop hph q) (by simp [hph]) (by simp [hph])
    · rename_i hc
      exact micro_findRoom hop rfl (by simp [hph, Phase.isTest]) nofun (by simpa using hc)
  | i1 => simp only [microRbInsert, hph] at h; exact micro_stepI1 hop rfl hph h
  | i2 => simp only [microRbInsert, hph] at h; exact micro_stepI2 hop rfl hph h
  | i3 => simp only [microRbInsert, hph] at h; exact micro_stepI3 hop rfl hph (.ret 0) h
  | _ => simp [Instr.hasPhase, hph] at hp

theorem micro_rbRemove (hop : s.main.op = some (.rbRemove r)) (hp : Instr.hasPhase (.rbRemove r) s.main.phase = true)
    (h : microRbRemove r s = .next t) : Micro (.rbRemove r) s t := by
  cases hph : s.main.phase with
  | x0 =>
    simp only [microRbRemove, hph, atomicCount_eq] at h
    cases h
    split
    · exact micro_raise (by simp) (by simp) (fun q => role_eq hop hph q) (by simp [hph]) (by simp [hph])
    · rename_i hc
      exact micro_findByte hop rfl (by simp [hph, Phase.isTest]) (by simpa using hc)
  | x1 => simp only [microRbRemove, hph] at h; exact micro_stepX1 hop rfl hph h
  | x2 => simp only [microRbRemove, hph] at h; exact micro_stepX2 hop rfl hph h
  | x3 => simp only [microRbRemove, hph] at h; exact micro_stepX3 hop rfl hph (.ret _) h
  | _ => simp [Instr.hasPhase, hph] at hp

theorem micro_rbFlush (hop : s.main.op = some (.rbFlush r)) (hp : Instr.hasPhase (.rbFlush r) s.main.phase = true)
    (h : microRbFlush r s = .next t) : Micro (.rbFlush r) s t := by
  cases hph : s.main.phase with
  | f1 =>
    have htest : s.main.phase.isTest = true := by simp [hph, Phase.isTest]
    simp only [microRbFlush, hph, atomicCount_eq] at h
    cases h
    split
    · exact (Leaves.ret 0).micro hop htest
    · rename_i hc
      exact micro_findByte hop rfl htest (by simpa using hc)
  | x1 => simp only [microRbFlush, hph] at h; exact micro_stepX1 hop rfl hph h
  | x2 => simp only [microRbFlush, hph] at h; exact micro_stepX2 hop rfl hph h
  | x3 =>
    simp only [microRbFlush, hph] at h
    exact micro_stepX3 hop rfl hph (.goto .f1 rfl (fun _ => rfl) (by simp [Ready])) h
  | _ => simp [Instr.hasPhase, hph] at hp

theorem micro_sysGie {imm : Byte} (hop : s.main.op = some (.sysGie imm))
    (hp : Instr.hasPhase (.sysGie imm) s.main.phase = true) (h : microSysGie imm s = .next t) : Micro (.sysGie imm) s t := by
  have hph : s.main.phase = .single := by simpa [Instr.hasPhase] using hp
  cases h
  exact {
    rings := ringMoves_of_end hop hph (fun _ => rfl) rfl rfl rfl
    main := .inl rfl }

/-- A micro-step of `ST_INIT` that writes registers alone: no role on a ring before it or after it, and no new promise. -/
theorem micro_stInit_registers {sel : Byte} {u : State} {ph ph' : Phase} (hop : s.main.op = some (.stInit sel))
    (hph : s.main.phase = ph) (hop' : u.main.op = s.main.op) (hrx : u.rx = s.rx) (htx : u.tx = s.tx)
    (hwidx : u.client.widx = s.client.widx) (hrxIe : ph' ≠ .cfgMark → u.xport.rxIe = s.xport.rxIe)
    (hphases : ph ≠ .cfgMark ∧ Instr.hasPhase (.stInit sel) ph' = true)
    (hquiet : ∀ q, roleAt (some (.stInit sel)) q ph = .free ∧ roleAt (some (.stInit sel)) q ph' = .free ∧
      (pastInit q ph' = true → pastInit q ph = true)) (hreg : Registers s (goto ph' u)) :
    Micro (.stInit sel) s (goto ph' u) := by
  obtain ⟨hmark, hhas⟩ := hphases
  have hring (q : RingId) : (goto ph' u).ring q = s.ring q := by
    cases q
    · exact hrx
    · exact htx
  have hready : Ready (.stInit sel) s → Ready (.stInit sel) (goto ph' u) := by
    refine Ready.stInit_next (by rwa [hph]) hrxIe (fun q hq => by rwa [hring]) fun q hq => .inl ?_
    rw [hph]; exact (hquiet q).2.2 hq
  exact { hreg with
    rings := ringMoves_of_goto hop hph (fun q => (hquiet q).1) (fun q => (hquiet q).2.1) hop' hrx htx
    main := .inr ⟨hop'.trans hop, hhas, hready⟩
    widx := fun _ h => hwidx.trans_le h }

theorem pastInit_initOut {q r : RingId} : pastInit q (.initOut r) = pastInit q (.initIn r) := by cases q <;> cases r <;> rfl
theorem pastInit_initCount {q r : RingId} : pastInit q (.initCount r) = pastInit q (.initOut r) := by cases q <;> cases r <;> rfl
theorem pastInit_initMark {q r : RingId} : pastInit q (.initMark r) = pastInit q (.initCount r) := by cases q <;> cases r <;> rfl

theorem State.setRing_initialized {v : Ring} (hv : (s.ring r).initialized = true → v.initialized = true) (q : RingId)
    (hq : (s.ring q).initialized = true) : ((s.setRing r v).ring q).initialized = true := by
  rw [State.setRing_ring]
  split
  · rename_i he; exact hv (he ▸ hq)
  · exact hq

theorem micro_stInit {sel : Byte} (hop : s.main.op = some (.stInit sel))
    (hp : Instr.hasPhase (.stInit sel) s.main.phase = true) (h : microStInit sel s = .next t) : Micro (.stInit sel) s t := by
  cases hph : s.main.phase with
  | cfgBaud | cfgLineOn | cfgRxPending | cfgTxReady | cfgRxStatus | cfgTxStatus | cfgRxIe =>
    simp only [microStInit, hph] at h
    cases h
    exact micro_stInit_registers hop hph rfl rfl rfl rfl (by simp) ⟨nofun, rfl⟩
      (fun q => ⟨rfl, rfl, by cases q <;> decide⟩) { }
  | initIn r =>
    simp only [microStInit, hph] at h
    cases h
    refine micro_initIn hop hph (by cases r <;> rfl) (Ready.stInit_next (by simp [hph]) (by simp) ?_ fun q hq => .inl ?_)
    · exact State.setRing_initialized (r := r) id
    · rw [hph, ← pastInit_initOut]; exact hq
  | initOut r =>
    simp only [microStInit, hph] at h
    cases h
    refine micro_initOut hop hph (by cases r <;> rfl) (Ready.stInit_next (by simp [hph]) (by simp) ?_ fun q hq => .inl ?_)
    · exact State.setRing_initialized (r := r) id
    · rw [hph, ← pastInit_initCount]; exact hq
  | initCount r =>
    simp only [microStInit, hph] at h
    cases h
    refine micro_initCount hop hph (by cases r <;> rfl) (Ready.stInit_next (by simp [hph]) (by simp) ?_ fun q hq => .inl ?_)
    · rw [initCountStep_eq]; exact State.setRing_initialized (r := r) id
    · rw [hph, ← pastInit_initMark]; exact hq
  | initMark r =>
    have hkeep : Ready (.stInit sel) s → Ready (.stInit sel) (initMarkStep r s) :=
      Ready.stInit_next (by simp [hph]) (by simp) (State.setRing_initialized fun _ => rfl)
        (fun q hq => .inl (by simpa using hq))
    have hnext {ph : Phase} (hp : ∀ q, q ≠ r → pastInit q ph = true → pastInit q (.initMark r) = true) :
        Ready (.stInit sel) (initMarkStep r s) → Ready (.stInit sel) (goto ph (initMarkStep r s)) := by
      refine Ready.stInit_next (by simp [hph]) (fun _ => rfl) (fun q hq => hq) fun q hq => ?_
      by_cases hqr : q = r
      · subst hqr; exact .inr (congrArg Ring.initialized (initMarkStep_ring_self q s))
      · exact .inl (by simpa [hph] using hp q hqr hq)
    cases r with
    | rx =>
      simp only [microStInit, hph] at h
      cases h
      refine micro_initMark hop hph hkeep (.goto (.initIn .tx) rfl (fun q => rfl) (hnext fun q hq => ?_))
      cases q with
      | rx => exact absurd rfl hq
      | tx => decide
    | tx =>
      simp only [microStInit, hph] at h
      cases h
      refine micro_initMark hop hph hkeep (.goto .cfgRxStatus rfl (fun q => rfl) (hnext fun q hq => ?_))
      cases q with
      | rx => decide
      | tx => exact absurd rfl hq
  | cfgTxIe =>
    simp only [microStInit, hph] at h
    cases h
    exact micro_stInit_registers hop hph rfl rfl rfl rfl (by simp) ⟨nofun, rfl⟩
      (fun q => ⟨rfl, rfl, by cases q <;> decide⟩) { txIe := nofun }
  | cfgMark =>
    simp only [microStInit, hph] at h
    cases h
    exact {
      rings := ringMoves_of_end hop hph (fun _ => rfl) rfl rfl rfl
      main := .inl rfl }
  | _ => simp [Instr.hasPhase, hph] at hp

theorem micro_stWriteByte {b : Byte} (hop : s.main.op = some (.stWriteByte b))
    (hp : Instr.hasPhase (.stWriteByte b) s.main.phase = true) (h : microStWriteByte b s = .next t) :
    Micro (.stWriteByte b) s t := by
  cases hph : s.main.phase with
  | w1 => simp only [microStWriteByte, hph] at h; exact micro_stepW1 hop rfl hph rfl h
  | i1 => simp only [microStWriteByte, hph] at h; exact micro_stepI1 hop rfl hph h
  | i2 => simp only [microStWriteByte, hph] at h; exact micro_stepI2 hop rfl hph h
  | i3 =>
    simp only [microStWriteByte, hph] at h
    exact micro_stepI3 hop rfl hph (.goto .w2 rfl (fun _ => rfl) (by simp [Ready])) h
  | w2 =>
    simp only [microStWriteByte, hph] at h
    cases h
    exact {
      rings := ringMoves_of_end hop hph (fun _ => rfl) rfl rfl rfl
      main := .inl rfl
      txIe := fun _ => .inr hph }
  | _ => simp [Instr.hasPhase, hph] at hp

theorem micro_stReadByte (hop : s.main.op = some .stReadByte) (hp : Instr.hasPhase .stReadByte s.main.phase = true)
    (h : microStReadByte s = .next t) : Micro .stReadByte s t := by
  cases hph : s.main.phase with
  | g1 =>
    have htest : s.main.phase.isTest = true := by simp [hph, Phase.isTest]
    simp only [microStReadByte, hph, atomicCount_eq] at h
    cases h
    split
    · exact (Leaves.goto .g2 rfl (fun _ => rfl) (by simp [Ready])).micro hop htest
    · rename_i hc
      exact micro_findByte hop rfl htest (by simpa using hc)
  | g2 =>
    simp only [microStReadByte, hph] at h
    cases h
    exact {
      rings := ringMoves_of_end hop hph (fun _ => rfl) rfl rfl rfl
      main := .inl rfl }
  | x1 => simp only [microStReadByte, hph] at h; exact micro_stepX1 hop rfl hph h
  | x2 => simp only [microStReadByte, hph] at h; exact micro_stepX2 hop rfl hph h
  | x3 => simp only [microStReadByte, hph] at h; exact micro_stepX3 hop rfl hph (.ret _) h
  | _ => simp [Instr.hasPhase, hph] at hp

theorem micro_stWaitTc (hop : s.main.op = some .stWaitTc) (hp : Instr.hasPhase .stWaitTc s.main.phase = true)
    (h : microStWaitTc s = .next t) : Micro .stWaitTc s t := by
  have hph : s.main.phase = .t1 := by simpa [Instr.hasPhase] using hp
  have htest : s.main.phase.isTest = true := by simp [hph, Phase.isTest]
  unfold microStWaitTc at h
  split at h
  · cases h; exact (Leaves.stay hp htest).micro hop htest
  · cases h; exact (Leaves.ret 0).micro hop htest

theorem micro_laPoll (hop : s.main.op = some .laPoll) (hp : Instr.hasPhase .laPoll s.main.phase = true)
    (h : microLaPoll s = .next t) : Micro .laPoll s t := by
  cases hph : s.main.phase with
  | p1 =>
    have htest : s.main.phase.isTest = true := by simp [hph, Phase.isTest]
    simp only [microLaPoll, hph, atomicCount_eq] at h
    cases h
    split
    · exact (Leaves.ret 0).micro hop htest
    · rename_i hc
      exact micro_findByte hop rfl htest (by simpa using hc)
  | x1 => simp only [microLaPoll, hph] at h; exact micro_stepX1 hop rfl hph h
  | x2 => simp only [microLaPoll, hph] at h; exact micro_stepX2 hop rfl hph h
  | x3 =>
    simp only [microLaPoll, hph] at h
    refine micro_stepX3 hop rfl hph ?_ h
    split
    · exact .goto .handoff rfl (fun _ => rfl) (by simp [Ready])
    · exact .goto .store rfl (fun _ => rfl) (by simp [Ready])
  | handoff | handoffReady =>
    simp only [microLaPoll, hph] at h
    cases h
    exact {
      rings := ringMoves_of_goto hop hph (fun _ => rfl) (fun _ => rfl) rfl rfl rfl
      main := .inr ⟨hop, rfl, by simp [Ready]⟩ }
  | handoffIdx =>
    simp only [microLaPoll, hph] at h
    cases h
    exact {
      rings := ringMoves_of_goto hop hph (fun _ => rfl) (fun _ => rfl) rfl rfl rfl
      main := .inr ⟨hop, rfl, by simp [Ready]⟩
      widx := by simp }
  | store =>
    simp only [microLaPoll, hph, storeByte] at h
    cases h
    split
    · exact micro_raise (by simp) (by simp) (fun q => role_eq hop hph q) (by simp [hph]) (by simp [hph])
    · rename_i hlt
      exact {
        rings := ringMoves_of_goto hop hph (fun _ => rfl) (fun _ => rfl) rfl rfl rfl
        main := .inr ⟨hop, rfl, fun _ => ⟨nofun, fun _ _ => by simpa using hlt, nofun⟩⟩ }
  | storeIdx =>
    simp only [microLaPoll, hph] at h
    cases h
    exact {
      rings := ringMoves_of_goto hop hph (fun _ => rfl) (fun _ => rfl) rfl rfl rfl
      main := .inr ⟨hop, rfl, by simp [Ready]⟩
      widx := fun hready _ => hready.2.1 rfl hph }
  | _ => simp [Instr.hasPhase, hph] at hp

theorem ready_laDispatch_iff : Ready .laDispatch s ↔
    (s.main.phase ≠ .route → s.main.phase ≠ .assign → s.main.phase ≠ .done → s.main.toSend ≠ []) := by simp [Ready]

/-- A response is sent byte by byte, and `LA_DISPATCH` goes on at its end only when none is left (R169, R170). -/
theorem micro_sendBytes {u : State} {ph : Phase} (bs : List Byte) (hop : s.main.op = some .laDispatch) (hph : s.main.phase = ph)
    (hs : ∀ q, roleAt (some .laDispatch) q ph = .free) (hop' : u.main.op = s.main.op) (hrx : u.rx = s.rx) (htx : u.tx = s.tx)
    (hwidx : u.client.widx = s.client.widx) (hreg : Registers s (sendBytes bs u)) : Micro .laDispatch s (sendBytes bs u) where
  toRegisters := hreg
  rings := by
    refine ringMoves_of_free (fun q => (role_eq hop hph q).trans (hs q)) (fun q => ?_) (fun q => ?_)
    · rw [role_eq (s := sendBytes bs u) (hop'.trans hop) rfl, sendBytes_main]
      split <;> rfl
    · cases q
      · exact hrx
      · exact htx
  main := by
    refine .inr ⟨hop'.trans hop, ?_, fun _ => ?_⟩
    · simp only [sendBytes_main]; split <;> rfl
    · rw [ready_laDispatch_iff]; simp +contextual
  widx := fun _ h => hwidx.trans_le h

/-- Taking the value writes the draw counter alone (R168). -/
theorem parsedValue_inv (s : State) : ∃ d, (parsedValue s).2 = { s with inputs.draws := d } := by
  unfold parsedValue
  split
  · exact ⟨s.inputs.draws, rfl⟩
  · exact ⟨_, rfl⟩

/-- An assignment writes `sensitivity` or calls a collaborator (R169, R170). -/
theorem assignKey_inv (key : Byte) (v : Word) (s : State) :
    ∃ x calls, assignKey key v s = { s with client.sensitivity := x, outputs.extCalls := calls } := by
  unfold assignKey
  split
  · exact ⟨v, s.outputs.extCalls, rfl⟩
  · split
    · exact ⟨s.client.sensitivity, _, rfl⟩
    · exact ⟨s.client.sensitivity, s.outputs.extCalls, rfl⟩

theorem micro_laDispatch (hop : s.main.op = some .laDispatch) (hp : Instr.hasPhase .laDispatch s.main.phase = true)
    (h : microLaDispatch s = .next t) : Micro .laDispatch s t := by
  cases hph : s.main.phase with
  | route =>
    have htest : s.main.phase.isTest = true := by simp [hph, Phase.isTest]
    have hdone : Micro .laDispatch s (goto .done s) :=
      (Leaves.goto .done rfl (fun _ => rfl) (by simp [ready_laDispatch_iff])).micro hop htest
    simp only [microLaDispatch, hph, routeCommand, query] at h
    cases h
    split
    · exact (Leaves.ret 0).micro hop htest
    · split
      · split
        · exact micro_sendBytes _ hop hph (fun _ => rfl) rfl rfl rfl rfl { }
        · split
          · exact micro_sendBytes _ hop hph (fun _ => rfl) rfl rfl rfl rfl { }
          · exact hdone
      · split
        · exact (Leaves.goto .assign rfl (fun _ => rfl) (by simp [ready_laDispatch_iff])).micro hop htest
        · exact hdone
  | w1 => simp only [microLaDispatch, hph] at h; exact micro_stepW1 hop rfl hph rfl h
  | i1 =>
    simp only [microLaDispatch, hph] at h
    split at h
    · exact micro_stepI1 hop rfl hph h
    · cases h
  | i2 => simp only [microLaDispatch, hph] at h; exact micro_stepI2 hop rfl hph h
  | i3 =>
    simp only [microLaDispatch, hph] at h
    refine micro_stepI3 hop rfl hph (.goto .w2 rfl (fun _ => rfl) ?_) h
    exact Ready.of_inserting (r := .tx) rfl (by simp [hph]) rfl
  | w2 =>
    simp only [microLaDispatch, hph, sentByte] at h
    cases h
    exact micro_sendBytes _ hop hph (fun _ => rfl) rfl rfl rfl rfl { txIe := fun _ => .inr hph }
  | assign =>
    simp only [microLaDispatch, hph] at h
    cases h
    obtain ⟨d, hd⟩ := parsedValue_inv s
    obtain ⟨x, calls, ha⟩ := assignKey_inv s.client.cmdBuf[0] (parsedValue s).1 (parsedValue s).2
    rw [ha, hd]
    exact {
      rings := ringMoves_of_goto hop hph (fun _ => rfl) (fun _ => rfl) rfl rfl rfl
      main := .inr ⟨hop, rfl, by simp [ready_laDispatch_iff]⟩ }
  | done =>
    simp only [microLaDispatch, hph] at h
    cases h
    exact {
      rings := ringMoves_of_end hop hph (fun _ => rfl) rfl rfl rfl
      main := .inl rfl }
  | _ => simp [Instr.hasPhase, hph] at hp

/-- All that executing a command can do: the answer of a failed check, the acceptance, a micro-step, or nothing (R46). -/
inductive CommandStep (i : Instr) (s : State) : State → Prop where
  | refused {c : ResultCode} (hidle : s.main.op = none) (hc : precheck i s = some c) : CommandStep i s (raise c s)
  | accepted (hidle : s.main.op = none) (hc : precheck i s = none) : CommandStep i s (accept i (firstPhase i) s)
  | micro {t : State} (hop : s.main.op = some i) (hp : Instr.hasPhase i s.main.phase = true) (m : Micro i s t) : CommandStep i s t
  | busy : CommandStep i s s

theorem commandStep_of_micro {m : State → Result}
    (hm : s.main.op = some i → Instr.hasPhase i s.main.phase = true → m s = .next t → Micro i s t)
    (h : runCommand i (firstPhase i) m s = .next t) : CommandStep i s t := by
  rcases runCommand_inv h with ⟨hidle, c, hc, rfl⟩ | ⟨hidle, hc, rfl⟩ | ⟨hop, hp, hmicro⟩ | ⟨_, _, _, rfl⟩
  · exact .refused hidle hc
  · exact .accepted hidle hc
  · exact .micro hop hp (hm hop hp hmicro)
  · exact .busy

/-- A command of one micro-step that answers a value and writes nothing (R106 to R108, R128). -/
theorem commandStep_of_ret {m : State → Result} (hm : ∃ v, m s = .next (ret v s))
    (hp : Instr.hasPhase i s.main.phase = true → s.main.phase = .single)
    (h : runCommand i (firstPhase i) m s = .next t) : CommandStep i s t := by
  obtain ⟨v, hv⟩ := hm
  refine commandStep_of_micro (fun hop hphase hnext => ?_) h
  rw [hv] at hnext
  cases hnext
  exact (Leaves.ret v).micro hop (by rw [hp hphase]; rfl)

theorem exec_commandStep (hi : i.isCommand = true) (h : exec i s = .next t) : CommandStep i s t := by
  cases i with
  | rbInit r => exact commandStep_of_micro micro_rbInit h
  | rbInsert r b => exact commandStep_of_micro micro_rbInsert h
  | rbRemove r => exact commandStep_of_micro micro_rbRemove h
  | rbFlush r => exact commandStep_of_micro micro_rbFlush h
  | sysGie imm => exact commandStep_of_micro micro_sysGie h
  | stInit sel => exact commandStep_of_micro micro_stInit h
  | stWriteByte b => exact commandStep_of_micro micro_stWriteByte h
  | stReadByte => exact commandStep_of_micro micro_stReadByte h
  | stWaitTc => exact commandStep_of_micro micro_stWaitTc h
  | laPoll => exact commandStep_of_micro micro_laPoll h
  | laDispatch => exact commandStep_of_micro micro_laDispatch h
  | reservedD x => exact commandStep_of_micro (m := fun _ => .fault .strayPhase) nofun h
  | rbCount r => exact commandStep_of_ret ⟨_, by rw [microRbCount, atomicCount_eq]⟩ (by simp [Instr.hasPhase]) h
  | rbIsempty r => exact commandStep_of_ret ⟨_, by rw [microRbIsempty, atomicCount_eq]⟩ (by simp [Instr.hasPhase]) h
  | rbIsfull r => exact commandStep_of_ret ⟨_, by rw [microRbIsfull, atomicCount_eq]⟩ (by simp [Instr.hasPhase]) h
  | stAvail => exact commandStep_of_ret ⟨_, by rw [microStAvail, atomicCount_eq]⟩ (by simp [Instr.hasPhase]) h
  | evRx => cases hi
  | evTx => cases hi

end
end Sys2Proof.Machine
end

section
/-! What the other agents can do, and the parts of the invariant that speak of MAIN's checks (R29, R86, R140, R145, R147). -/

namespace Sys2Proof.Machine

/-- What a step of another agent than MAIN leaves, the rings' cursors, counts and slots apart. -/
structure OtherStep (s t : State) : Prop where
  main : t.main = s.main := by rfl
  cfg : t.cfg = s.cfg := by rfl
  faults : t.faults = s.faults := by rfl
  client : t.client = s.client := by rfl
  inIrq : s.ctx.inIrq = false → t.ctx.inIrq = false := by exact id
  critSaved : t.ctx.critSaved = s.ctx.critSaved := by rfl
  ringInit : ∀ r, (t.ring r).initialized = (s.ring r).initialized := by intro r; cases r <;> rfl
  initialized : t.xport.initialized = s.xport.initialized := by rfl
  rxIe : t.xport.rxIe = s.xport.rxIe := by rfl
  txIe : t.xport.txIe = true → s.xport.txIe = true := by exact id
  rxStatus : t.xport.rxStatus = s.xport.rxStatus ∨ t.xport.rxStatus ≠ .transmitting := by exact .inl rfl
  txStatus : t.xport.txStatus = s.xport.txStatus ∨ (t.xport.txStatus ≠ .dataPending ∧ t.xport.txStatus ≠ .bufferFull) := by
    exact .inl rfl
  lineOn : t.line.on = s.line.on := by rfl
  rxPending : t.line.rxPending = true → s.line.rxPending = true ∨ s.line.on = true := by exact .inl
  wireOut : s.outputs.wireOut <+: t.outputs.wireOut := by exact List.prefix_rfl
  rsp : t.outputs.rsp = s.outputs.rsp := by rfl

theorem otherStep_inputs (s : State) (x : Inputs) : OtherStep s { s with inputs := x } where

theorem arrive_otherStep (s : State) : OtherStep s (arrive s) ∧ ∀ r, (arrive s).ring r = s.ring r := by
  unfold arrive
  split
  · exact ⟨{ }, fun _ => rfl⟩
  · split
    · exact ⟨{ }, fun r => by cases r <;> rfl⟩
    · rename_i hon
      split
      · exact ⟨{ rxPending := fun _ => .inr (by simpa using hon) }, fun r => by cases r <;> rfl⟩
      · exact ⟨{ }, fun r => by cases r <;> rfl⟩

theorem take_otherStep (s : State) : OtherStep s (take s) ∧ ∀ r, (take s).ring r = s.ring r := by
  unfold take
  split
  · exact ⟨{ wireOut := List.prefix_append _ _ }, fun r => by cases r <;> rfl⟩
  · exact ⟨{ }, fun _ => rfl⟩

/-- The receive event writes `in`, a slot and `count` of RX, and of no other ring (R142). -/
theorem evRx_otherStep {s t : State} (h : exec .evRx s = .next t) :
    OtherStep s t ∧ t.tx = s.tx ∧
      (t.rx = s.rx ∨ (s.xport.rxIe = true ∧ s.rx.count.toNat ≠ s.cap .rx ∧ ∃ b, t.rx = s.rx.push (s.cap .rx) b)) := by
  rcases runHandler_inv h with ⟨-, rfl⟩ | ⟨hstart, u, hu, rfl⟩
  · exact ⟨{ }, rfl, .inl rfl⟩
  · obtain ⟨-, -, hie, -⟩ := (canStart_rx_iff s).mp hstart
    rcases evRxBody_inv hu with ⟨-, rfl⟩ | ⟨hfull, -, rfl⟩
    · exact ⟨{ rxStatus := .inr nofun, inIrq := fun _ => rfl, rxPending := nofun }, rfl, .inl rfl⟩
    · exact ⟨{ rxStatus := .inr nofun, inIrq := fun _ => rfl, rxPending := nofun }, rfl, .inr ⟨hie, hfull, _, rfl⟩⟩

/-- The transmit-ready event writes `out` and `count` of TX, and of no other ring (R144). -/
theorem evTx_otherStep {s t : State} (h : exec .evTx s = .next t) :
    OtherStep s t ∧ t.rx = s.rx ∧
      (t.tx = s.tx ∨ (s.xport.txIe = true ∧ s.tx.count ≠ 0 ∧ t.tx = s.tx.pop (s.cap .tx))) := by
  rcases runHandler_inv h with ⟨-, rfl⟩ | ⟨hstart, u, hu, rfl⟩
  · exact ⟨{ }, rfl, .inl rfl⟩
  · obtain ⟨-, -, hie, -⟩ := (canStart_tx_iff s).mp hstart
    rcases evTxBody_inv hu with ⟨-, rfl⟩ | ⟨hne, -, b, d, rfl, -⟩
    · exact ⟨{ txStatus := .inr ⟨nofun, nofun⟩, inIrq := fun _ => rfl, txIe := nofun }, rfl, .inl rfl⟩
    · exact ⟨{ txStatus := .inr ⟨nofun, nofun⟩, inIrq := fun _ => rfl }, rfl, .inr ⟨hie, hne, rfl⟩⟩

section
variable {i : Instr} {s t : State}

theorem precheck_none_iff :
    precheck i s = none ↔
      s.faults.halted = false ∧ illegalHere i s = false ∧ initFault i s = none ∧ breaksOwnership i s = false ∧
        badConfig i s = false := by
  unfold precheck
  split
  · simp_all
  · split
    · simp_all
    · split
      · simp_all
      · split_ifs <;> simp_all

theorem initFault_eq {c : ResultCode} (h : initFault i s = some c) : c = .uninit ∨ c = .reinit := by
  by_contra hc
  obtain ⟨hu, hr⟩ := not_or.mp hc
  cases i <;> simp [initFault, Ne.symm hu, Ne.symm hr] at h

/-- The code of a failed check is a fault's, and `F_CONFIG` is answered before initialization alone (R86, R122, R123). -/
theorem precheck_some {c : ResultCode} (h : precheck i s = some c) :
    c ≠ .ok ∧ (c = .config → s.xport.initialized = false) := by
  unfold precheck at h
  split at h
  · cases h; simp
  · split at h
    · cases h; simp
    · split at h
      · rename_i hinit
        cases h
        rcases initFault_eq hinit with rfl | rfl <;> simp
      · rename_i hinit
        split_ifs at h with hown hbad
        · cases h; simp
        · cases h
          cases i <;> simp_all [badConfig, initFault]

theorem initFault_kept (hring : ∀ r, (s.ring r).initialized = true → (t.ring r).initialized = true)
    (hx : t.xport.initialized = s.xport.initialized) (h : initFault i s = none) : initFault i t = none := by
  cases i <;> simp_all [initFault]

/-- The checks of R86 still pass after a step that takes back nothing they read. -/
theorem precheck_kept (hcfg : t.cfg = s.cfg) (hhalted : t.faults.halted = false)
    (hring : ∀ r, (s.ring r).initialized = true → (t.ring r).initialized = true)
    (hx : t.xport.initialized = s.xport.initialized) (hown : breaksOwnership i t = true → breaksOwnership i s = true)
    (h : precheck i s = none) : precheck i t = none := by
  obtain ⟨-, hill, hinit, hb, hbad⟩ := precheck_none_iff.mp h
  refine precheck_none_iff.mpr ⟨hhalted, ?_, initFault_kept hring hx hinit, ?_, ?_⟩
  · cases i <;> simp_all [illegalHere]
  · exact Bool.eq_false_iff.mpr fun ht => by simp [hown ht] at hb
  · cases i <;> simp_all [badConfig]

/-- With a command in progress `MainOk` says that it belongs there and that the checks still pass. -/
theorem mainOk_iff (hop : s.main.op = some i) :
    MainOk s ↔ i.isCommand = true ∧ Instr.hasPhase i s.main.phase = true ∧ precheck i s = none ∧ Ready i s := by
  unfold MainOk
  rw [hop]
  rfl

theorem mainOk_of_idle (h : s.main = MainSeq.idle) : MainOk s := by
  unfold MainOk
  rw [h]
  rfl

theorem Inv.idle (h : Inv s) (hop : s.main.op = none) : s.main = MainSeq.idle := by
  have hm := h.mainOk
  unfold MainOk at hm
  rwa [hop] at hm

theorem Inv.running (h : Inv s) (hop : s.main.op = some i) :
    i.isCommand = true ∧ Instr.hasPhase i s.main.phase = true ∧ precheck i s = none ∧ Ready i s :=
  (mainOk_iff hop).mp h.mainOk

theorem Inv.not_halted (h : Inv s) (hop : s.main.op = some i) : s.faults.halted = false := by
  obtain ⟨-, -, hhalt⟩ := h.faultsOk
  exact Bool.eq_false_iff.mpr fun hh => by simp [(hhalt hh).1] at hop

theorem insertsInto_eq_rx : insertsInto i = some .rx ↔ ∃ b, i = .rbInsert .rx b := by
  cases i <;> simp [insertsInto]

theorem removesFrom_eq_tx : removesFrom i = some .tx ↔ i = .rbRemove .tx ∨ i = .rbFlush .tx := by
  cases i <;> simp [removesFrom]

theorem ownsIn_roleAt {r : RingId} {ph : Phase} (h : (roleAt (some i) r ph).ownsIn) :
    insertsInto i = some r ∨ ph = .initOut r ∨ ph = .initCount r := by
  unfold roleAt at h
  split at h
  case h_9 => exact h.elim
  all_goals
    split_ifs at h with hr
    · simp_all [Role.ownsIn]
    · exact h.elim

theorem ownsOut_roleAt {r : RingId} {ph : Phase} (h : (roleAt (some i) r ph).ownsOut) :
    removesFrom i = some r ∨ ph = .initOut r ∨ ph = .initCount r := by
  unfold roleAt at h
  split at h
  case h_9 => exact h.elim
  all_goals
    split_ifs at h with hr
    · simp_all [Role.ownsOut]
    · exact h.elim

/-- The body of `RB_INIT r` is in two commands (R101, R121). -/
theorem eq_of_hasPhase_init {r : RingId} {ph : Phase} (hp : Instr.hasPhase i ph = true)
    (h : ph = .initOut r ∨ ph = .initCount r) : i = .rbInit r ∨ ∃ sel, i = .stInit sel := by
  rcases h with rfl | rfl <;> cases i <;> simp_all [Instr.hasPhase]

/-- While the receive event is enabled MAIN is no writer of `RX.in` or of a slot of RX (R29, R111). -/
theorem Inv.not_ownsIn_rx (h : Inv s) (hie : s.xport.rxIe = true) : ¬ (s.role .rx).ownsIn := by
  cases hop : s.main.op with
  | none => rw [State.role_of_idle (h.idle hop)]; exact id
  | some i =>
    obtain ⟨-, hp, hc, -, -, hst⟩ := h.running hop
    obtain ⟨-, -, -, hown, -⟩ := precheck_none_iff.mp hc
    rw [role_eq hop rfl]
    intro howns
    rcases ownsIn_roleAt howns with hins | hph
    · obtain ⟨b, rfl⟩ := insertsInto_eq_rx.mp hins
      simp [breaksOwnership, hie] at hown
    · rcases eq_of_hasPhase_init hp hph with rfl | ⟨sel, rfl⟩
      · simp [breaksOwnership, hie] at hown
      · have hoff : s.xport.rxIe = false := (hst sel rfl).1 (by rcases hph with hph | hph <;> simp [hph])
        simp [hie] at hoff

/-- While the transmit-ready event is enabled MAIN is no writer of `TX.out` (R29, R111). -/
theorem Inv.not_ownsOut_tx (h : Inv s) (hie : s.xport.txIe = true) : ¬ (s.role .tx).ownsOut := by
  cases hop : s.main.op with
  | none => rw [State.role_of_idle (h.idle hop)]; exact id
  | some i =>
    obtain ⟨-, hp, hc, -⟩ := h.running hop
    obtain ⟨-, -, hinit, hown, -⟩ := precheck_none_iff.mp hc
    rw [role_eq hop rfl]
    intro howns
    rcases ownsOut_roleAt howns with hrem | hph
    · rcases removesFrom_eq_tx.mp hrem with rfl | rfl <;> simp [breaksOwnership, hie] at hown
    · rcases eq_of_hasPhase_init hp hph with rfl | ⟨sel, rfl⟩
      · simp [breaksOwnership, hie] at hown
      · obtain ⟨-, -, -, htx, -⟩ := h.xportOk
        simp [initFault, htx hie] at hinit

end
end Sys2Proof.Machine
end

section
/-! Every step of every agent keeps the invariant (R26, R27, R30, R36, R72, R122). -/

namespace Sys2Proof.Machine

section
variable {i : Instr} {s t : State}

theorem Inv.of_rings (hrings : ∀ r, RingInv t r) (hmain : MainOk t) (hxport : XportOk t) (hfaults : FaultsOk t)
    (hctx : t.ctx.inIrq = false ∧ t.ctx.critSaved = []) (hline : t.line.rxPending = true → t.line.on = true)
    (hclient : t.client.widx ≤ lineCap - 1) : Inv t := by
  have hparts (r : RingId) := (roleOk_iff t r).mp (hrings r).role
  exact ⟨fun r => (hrings r).ok, fun r => (hparts r).1, fun r => (hparts r).2.1, fun r => (hparts r).2.2, hmain, hxport, hfaults,
    hctx, hline, hclient⟩

theorem RingInv.congr {r : RingId} (h : RingInv s r) (hcfg : t.cfg = s.cfg) (hrole : t.role r = s.role r)
    (hring : t.ring r = s.ring r) : RingInv t r where
  ok := by rw [State.cap_congr hcfg, hring]; exact h.ok
  role := by rw [State.cap_congr hcfg, hring, hrole]; exact h.role

/-- Another agent's step keeps the invariant if it keeps that of the rings. -/
theorem Inv.of_otherStep (h : Inv s) (o : OtherStep s t) (hrings : ∀ r, RingInv t r) : Inv t := by
  have hinit (r : RingId) (hr : (s.ring r).initialized = true) : (t.ring r).initialized = true := (o.ringInit r).trans hr
  obtain ⟨hrxs, htxs, htxs', htxie, hrxie, hxinit⟩ := h.xportOk
  obtain ⟨hunseen, hseen, hhalted⟩ := h.faultsOk
  refine .of_rings hrings ?_ ⟨?_, ?_, ?_, ?_, ?_, ?_⟩ ⟨?_, ?_, ?_⟩ ?_ ?_ ?_
  · cases hop : s.main.op with
    | none => exact mainOk_of_idle (o.main.trans (h.idle hop))
    | some i =>
      obtain ⟨hcmd, hp, hc, hdisp, hpoll, hst⟩ := h.running hop
      refine (mainOk_iff (o.main ▸ hop)).mpr ⟨hcmd, o.main ▸ hp, ?_, ?_⟩
      · refine precheck_kept o.cfg (by rw [o.faults]; exact h.not_halted hop) hinit o.initialized ?_ hc
        unfold breaksOwnership
        split <;> simp_all [o.rxIe, o.txIe]
      · unfold Ready
        rw [o.main, o.client, o.rxIe]
        exact ⟨hdisp, hpoll, fun sel he => ⟨(hst sel he).1, fun r hr => hinit r ((hst sel he).2 r hr)⟩⟩
  · rcases o.rxStatus with hr | hr
    · rwa [hr]
    · exact hr
  · rcases o.txStatus with hr | hr
    · rwa [hr]
    · exact hr.1
  · rcases o.txStatus with hr | hr
    · rwa [hr]
    · exact hr.2
  · rw [o.initialized]; exact fun ht => htxie (o.txIe ht)
  · rw [o.initialized, o.rxIe]; simpa [State.runs, o.main] using hrxie
  · rw [o.initialized]; exact fun hx => ⟨hinit .rx (hxinit hx).1, hinit .tx (hxinit hx).2⟩
  · rw [o.faults]; exact hunseen
  · rw [o.faults]; exact hseen
  · rw [o.faults, o.main, o.initialized, o.rxIe]
    intro hh
    obtain ⟨hop, hx, hr, ht⟩ := hhalted hh
    exact ⟨hop, hx, hr, Bool.eq_false_iff.mpr fun hte => by simp [o.txIe hte] at ht⟩
  · exact ⟨o.inIrq h.ctxOk.1, o.critSaved.trans h.ctxOk.2⟩
  · rw [o.lineOn]
    exact fun hp => (o.rxPending hp).elim h.lineOk id
  · rw [o.client]; exact h.clientOk

theorem Inv.of_otherStep_same_rings (h : Inv s) (o : OtherStep s t) (hring : ∀ r, t.ring r = s.ring r) : Inv t :=
  h.of_otherStep o fun r => (h.ringInv r).congr o.cfg (State.role_congr o.main r) (hring r)

/-- The receive event keeps the invariant: it stores with room, while MAIN is no writer of `RX.in` (R29, R72). -/
theorem Inv.evRx (h : Inv s) (hstep : exec .evRx s = .next t) : Inv t := by
  obtain ⟨o, htx, hrx⟩ := evRx_otherStep hstep
  have hrole := State.role_congr o.main
  refine h.of_otherStep o fun r => ?_
  cases r with
  | tx => exact (h.ringInv .tx).congr o.cfg (hrole .tx) htx
  | rx =>
    rcases hrx with hrx | ⟨hie, hfull, b, hrx⟩
    · exact (h.ringInv .rx).congr o.cfg (hrole .rx) hrx
    · obtain ⟨hok, hr⟩ := h.ringInv .rx
      obtain ⟨hok', hr'⟩ := RoleOk.push hok hr (h.not_ownsIn_rx hie) (s.cap_le .rx) (lt_of_le_of_ne hok.countLe hfull) b
      constructor
      · rw [State.cap_congr o.cfg, State.ring_rx, hrx]; exact hok'
      · rw [State.cap_congr o.cfg, hrole, State.ring_rx, hrx]; exact hr'

/-- The transmit-ready event keeps the invariant: it removes a byte, while MAIN is no writer of `TX.out` (R29, R72). -/
theorem Inv.evTx (h : Inv s) (hstep : exec .evTx s = .next t) : Inv t := by
  obtain ⟨o, hrx, htx⟩ := evTx_otherStep hstep
  have hrole := State.role_congr o.main
  refine h.of_otherStep o fun r => ?_
  cases r with
  | rx => exact (h.ringInv .rx).congr o.cfg (hrole .rx) hrx
  | tx =>
    rcases htx with htx | ⟨hie, hne, htx⟩
    · exact (h.ringInv .tx).congr o.cfg (hrole .tx) htx
    · obtain ⟨hok, hr⟩ := h.ringInv .tx
      obtain ⟨hok', hr'⟩ := RoleOk.pop hok hr (h.not_ownsOut_tx hie) (by change 0 < s.tx.count.toNat; bv_omega)
      constructor
      · rw [State.cap_congr o.cfg, State.ring_tx, htx]; exact hok'
      · rw [State.cap_congr o.cfg, hrole, State.ring_tx, htx]; exact hr'

theorem ResultCode.num_range {c : ResultCode} (h : c ≠ .ok) : 1 ≤ c.num.toNat ∧ c.num.toNat ≤ 9 := by
  cases c with
  | ok => exact absurd rfl h
  | _ => decide

/-- A recorded code is a fault's (R181, R183). -/
theorem FaultsOk.record_code {c : ResultCode} (h : FaultsOk s) (hc : c ≠ .ok) :
    1 ≤ (s.faults.record c).code.toNat ∧ (s.faults.record c).code.toNat ≤ 9 := by
  obtain ⟨-, hseen, -⟩ := h
  simp only [FaultRecord.record]
  split
  · exact hseen ‹_›
  · exact ResultCode.num_range hc

/-- With MAIN idle both enables wait for initialization (R39, R40). -/
theorem XportOk.initialized_of_enabled (h : XportOk s) (hop : s.main.op = none)
    (hie : s.xport.rxIe = true ∨ s.xport.txIe = true) : s.xport.initialized = true := by
  obtain ⟨-, -, -, htxie, hrxie, -⟩ := h
  rcases hie with hr | ht
  · simpa [hop] using hrxie hr
  · exact htxie ht

/-- Leaving the idle state, or staying in it, with the registers as they are. -/
theorem XportOk.of_idle (h : XportOk s) (hop : s.main.op = none) (hx : t.xport = s.xport) (hrx : t.rx = s.rx) (htx : t.tx = s.tx) :
    XportOk t := by
  have hinit := h.initialized_of_enabled hop
  obtain ⟨hrxs, htxs, htxs', htxie, -, hxinit⟩ := h
  unfold XportOk
  rw [hx, hrx, htx]
  exact ⟨hrxs, htxs, htxs', htxie, fun hr => .inl (hinit (.inl hr)), hxinit⟩

/-- Answering a fault with MAIN idle keeps the invariant; `F_CONFIG` halts before anything is enabled (R122, R183). -/
theorem Inv.raise {c : ResultCode} (h : Inv s) (hop : s.main.op = none) (hok : c ≠ .ok)
    (hconfig : c = .config → s.xport.initialized = false) : Inv (raise c s) := by
  have hinit := h.xportOk.initialized_of_enabled hop
  obtain ⟨-, -, hhalted⟩ := h.faultsOk
  refine .of_rings (fun r => (h.ringInv r).congr rfl ?_ (by cases r <;> rfl)) (mainOk_of_idle rfl)
    (h.xportOk.of_idle hop rfl rfl rfl) ⟨nofun, fun _ => h.faultsOk.record_code hok, fun hh => ?_⟩ h.ctxOk h.lineOk h.clientOk
  · rw [State.role_of_idle rfl, State.role_of_idle (h.idle hop)]
  · refine ⟨rfl, ?_⟩
    by_cases hc : c = .config
    · have hx := hconfig hc
      exact ⟨hx, Bool.eq_false_iff.mpr fun hr => by simp [hinit (.inl hr)] at hx,
        Bool.eq_false_iff.mpr fun ht => by simp [hinit (.inr ht)] at hx⟩
    · exact (hhalted (by simpa [FaultRecord.record, hc] using hh)).2

theorem roleAt_firstPhase (op : Option Instr) (r : RingId) (i : Instr) : roleAt op r (firstPhase i) = .free := by
  cases i <;> rfl

/-- A command that the checks admit has a first micro-step: the reserved word is illegal (R85, R86). -/
theorem hasPhase_firstPhase (hi : i.isCommand = true) (h : illegalHere i s = false) : Instr.hasPhase i (firstPhase i) = true := by
  cases i <;> simp_all [Instr.hasPhase, firstPhase, illegalHere, Instr.isCommand]

/-- Accepting a command keeps the invariant (R46). -/
theorem Inv.accept (h : Inv s) (hop : s.main.op = none) (hi : i.isCommand = true) (hc : precheck i s = none) :
    Inv (accept i (firstPhase i) s) := by
  obtain ⟨hhalted, hill, hinit, -⟩ := precheck_none_iff.mp hc
  obtain ⟨hunseen, hseen, -⟩ := h.faultsOk
  have hready : Ready i (Machine.accept i (firstPhase i) s) := by
    refine ⟨?_, ?_, fun sel he => ?_⟩
    · rintro rfl hroute; exact absurd rfl hroute
    · rintro rfl hp; cases hp
    · subst he
      refine ⟨fun _ => Bool.eq_false_iff.mpr fun hr => ?_, fun r hp => by cases r <;> cases hp⟩
      simp [initFault, h.xportOk.initialized_of_enabled hop (.inl hr)] at hinit
  refine .of_rings (fun r => (h.ringInv r).congr rfl ?_ (by cases r <;> rfl))
    ((mainOk_iff rfl).mpr ⟨hi, hasPhase_firstPhase hi hill, hc, hready⟩) (h.xportOk.of_idle hop rfl rfl rfl)
    ⟨hunseen, hseen, fun hh => ?_⟩ h.ctxOk h.lineOk h.clientOk
  · rw [State.role_of_idle (h.idle hop)]; exact roleAt_firstPhase _ _ _
  · simp [hhalted] at hh

theorem initialized_of_w2 (hp : Instr.hasPhase i .w2 = true) (hc : initFault i s = none) : s.xport.initialized = true := by
  cases i <;> simp_all [Instr.hasPhase, initFault]

theorem eq_stInit_of_cfg {ph : Phase} (hp : Instr.hasPhase i ph = true) (h : ph = .cfgRxIe ∨ ph = .cfgMark) :
    ∃ sel, i = .stInit sel := by
  rcases h with rfl | rfl <;> cases i <;> simp_all [Instr.hasPhase]

/-- The enables that a micro-step sets are no owner's of a ring that its own command writes (R111). -/
theorem Micro.breaksOwnership (hp : Instr.hasPhase i s.main.phase = true) (m : Micro i s t)
    (h : breaksOwnership i t = true) : breaksOwnership i s = true := by
  have hrx (ht : t.xport.rxIe = true) : s.xport.rxIe = true ∨ ∃ sel, i = .stInit sel :=
    (m.rxIe.mp ht).imp_right fun hph => eq_stInit_of_cfg hp (.inl hph)
  have htx (ht : t.xport.txIe = true) : s.xport.txIe = true ∨ Instr.hasPhase i .w2 = true :=
    (m.txIe ht).imp_right fun hph => by rwa [hph] at hp
  unfold Machine.breaksOwnership at h ⊢
  split <;> simp_all [Instr.hasPhase]

theorem Micro.not_halted (hs : s.faults.halted = false) (m : Micro i s t) : t.faults.halted = false := by
  rcases m.faults with hf | ⟨-, c, -, hc, hf⟩ <;> rw [hf]
  · exact hs
  · simpa [FaultRecord.record, hc] using hs

theorem Inv.micro_mainOk (h : Inv s) (hop : s.main.op = some i) (m : Micro i s t) : MainOk t := by
  obtain ⟨hcmd, hp, hc, hready⟩ := h.running hop
  rcases m.main with hidle | ⟨hop', hp', hr⟩
  · exact mainOk_of_idle hidle
  · have hmark : s.main.phase ≠ .cfgMark := fun hph => by simp [m.done hph] at hop'
    have hx : t.xport.initialized = s.xport.initialized :=
      Bool.eq_iff_iff.mpr (m.initialized.trans (or_iff_left hmark))
    refine (mainOk_iff hop').mpr ⟨hcmd, hp', ?_, hr hready⟩
    exact precheck_kept m.cfg (m.not_halted (h.not_halted hop)) (fun r => (m.rings r).initialized_kept) hx (m.breaksOwnership hp) hc

theorem Inv.micro_xportOk (h : Inv s) (hop : s.main.op = some i) (m : Micro i s t) : XportOk t := by
  obtain ⟨-, hp, hc, -, -, hst⟩ := h.running hop
  obtain ⟨-, -, hinit, -, -⟩ := precheck_none_iff.mp hc
  obtain ⟨hrxs, htxs, htxs', htxie, hrxie, hxinit⟩ := h.xportOk
  refine ⟨?_, ?_, ?_, fun ht => m.initialized.mpr (.inl ?_), fun ht => ?_, fun hx => ?_⟩
  · rcases m.rxStatus with hr | hr <;> rw [hr]
    · exact hrxs
    · nofun
  · rcases m.txStatus with hr | hr <;> rw [hr]
    · exact htxs
    · nofun
  · rcases m.txStatus with hr | hr <;> rw [hr]
    · exact htxs'
    · nofun
  · rcases m.txIe ht with hs | hw
    · exact htxie hs
    · exact initialized_of_w2 (hw ▸ hp) hinit
  · rcases m.rxIe.mp ht with hs | hph
    · exact .inl (m.initialized.mpr ((hrxie hs).imp_right fun ⟨_, _, hph⟩ => hph))
    · obtain ⟨sel, rfl⟩ := eq_stInit_of_cfg hp (.inl hph)
      rcases m.main with hidle | ⟨hop', -⟩
      · have hnext := m.mark hph
        rw [hidle] at hnext
        cases hnext
      · exact .inr ⟨sel, hop', m.mark hph⟩
  · have hrings : ∀ r, (s.ring r).initialized = true := by
      rcases m.initialized.mp hx with hs | hph
      · intro r
        cases r
        · exact (hxinit hs).1
        · exact (hxinit hs).2
      · obtain ⟨sel, rfl⟩ := eq_stInit_of_cfg hp (.inr hph)
        exact fun r => (hst sel rfl).2 r (by rw [hph]; cases r <;> rfl)
    exact ⟨(m.rings .rx).initialized_kept (hrings .rx), (m.rings .tx).initialized_kept (hrings .tx)⟩

theorem Inv.micro_faultsOk (h : Inv s) (hop : s.main.op = some i) (m : Micro i s t) : FaultsOk t := by
  obtain ⟨hunseen, hseen, -⟩ := h.faultsOk
  have hhalted := m.not_halted (h.not_halted hop)
  rcases m.faults with hf | ⟨-, c, hok, -, hf⟩
  · exact ⟨by rwa [hf], by rwa [hf], fun hh => by simp [hhalted] at hh⟩
  · exact ⟨by rw [hf]; nofun, by rw [hf]; exact fun _ => h.faultsOk.record_code hok, fun hh => by simp [hhalted] at hh⟩

/-- A micro-step of the command in progress keeps the invariant. -/
theorem Inv.micro (h : Inv s) (hop : s.main.op = some i) (m : Micro i s t) : Inv t := by
  obtain ⟨-, -, -, hready⟩ := h.running hop
  refine .of_rings (fun r => ?_) (h.micro_mainOk hop m) (h.micro_xportOk hop m) (h.micro_faultsOk hop m)
    ⟨m.inIrq.trans h.ctxOk.1, m.critSaved.trans h.ctxOk.2⟩ (fun hpend => m.lineOn (h.lineOk (m.rxPending hpend)))
    (m.widx hready h.clientOk)
  obtain ⟨hok, hrole⟩ := (m.rings r).keeps (s.cap_le r) (h.ringInv r).ok (h.ringInv r).role
  constructor <;> rw [State.cap_congr m.cfg]
  · exact hok
  · exact hrole

theorem Inv.commandStep (h : Inv s) (hi : i.isCommand = true) (hstep : CommandStep i s t) : Inv t := by
  cases hstep with
  | refused hidle hc => exact h.raise hidle (precheck_some hc).1 (precheck_some hc).2
  | accepted hidle hc => exact h.accept hidle hi hc
  | micro hop _ m => exact h.micro hop m
  | busy => exact h

theorem Inv.exec (h : Inv s) (hstep : exec i s = .next t) : Inv t := by
  cases hi : i.isCommand with
  | true => exact h.commandStep hi (exec_commandStep hi hstep)
  | false =>
    cases i with
    | evRx => exact h.evRx hstep
    | evTx => exact h.evTx hstep
    | _ => cases hi

/-- No clause of the invariant speaks of the inputs of the run. -/
theorem Inv.of_inputs (h : Inv s) (x : Inputs) : Inv { s with inputs := x } :=
  h.of_otherStep_same_rings (otherStep_inputs s x) fun r => by cases r <;> rfl

theorem Inv.mainStep (h : Inv s) (hstep : mainStep s = .next t) : Inv t := by
  rcases mainStep_inv hstep with rfl | ⟨-, i, -, hexec⟩ | ⟨-, hop, w, ws, -, ⟨i, -, hexec⟩ | ⟨e, -, rfl⟩⟩
  · exact h
  · exact h.exec hexec
  · exact (h.of_inputs _).exec hexec
  · exact (h.of_inputs _).raise hop (by split <;> simp) (by split <;> simp)

end

/-- Settles O13: MAIN's steps move each ring by `RingMove` and keep what its role promises; the handlers store and remove only where
MAIN is no writer; the line device touches no ring. -/
theorem everyStepKeepsTheInvariant : Obligations.EveryStepKeepsTheInvariant := by
  intro s t h hstep
  obtain ⟨sch, d, hcases⟩ := step_inv hstep
  have hu := h.of_inputs { s.inputs with schedule := sch, draws := d }
  rcases hcases with hmain | hrx | htx | rfl | rfl
  · exact hu.mainStep hmain
  · exact hu.evRx hrx
  · exact hu.evTx htx
  · exact hu.of_otherStep_same_rings (arrive_otherStep _).1 (arrive_otherStep _).2
  · exact hu.of_otherStep_same_rings (take_otherStep _).1 (take_otherStep _).2

end Sys2Proof.Machine
end

section
/-! What no step takes back (R25, R39, R42, R43, R45, R183, R211), and the one writer of each cursor (R29). -/

namespace Sys2Proof.Machine

/-- The marks that stay set, the records that stay, and the outputs that only grow. -/
structure Sticky (s t : State) : Prop where
  halted : s.faults.halted = true → t.faults.halted = true
  recorded : s.faults.seen = true → t.faults.seen = true ∧ t.faults.code = s.faults.code
  rxIe : s.xport.rxIe = true → t.xport.rxIe = true
  rxIeSet : t.xport.rxIe = true → s.xport.rxIe = true ∨ ∃ sel, s.runs (.stInit sel) .cfgRxIe
  lineOn : s.line.on = true → t.line.on = true
  ringInit : ∀ r, (s.ring r).initialized = true → (t.ring r).initialized = true
  initialized : s.xport.initialized = true → t.xport.initialized = true
  cfg : t.cfg = s.cfg
  wireOut : s.outputs.wireOut <+: t.outputs.wireOut
  rsp : s.outputs.rsp <+: t.outputs.rsp

section
variable {i : Instr} {s t : State}

theorem record_sticky (f : FaultRecord) (c : ResultCode) :
    (f.halted = true → (f.record c).halted = true) ∧
      (f.seen = true → (f.record c).seen = true ∧ (f.record c).code = f.code) := by
  simp +contextual [FaultRecord.record]

theorem Sticky.rfl : Sticky s s where
  halted := id
  recorded h := ⟨h, Eq.refl _⟩
  rxIe := id
  rxIeSet := .inl
  lineOn := id
  ringInit _ := id
  initialized := id
  cfg := Eq.refl _
  wireOut := List.prefix_rfl
  rsp := List.prefix_rfl

theorem sticky_raise (c : ResultCode) (s : State) : Sticky s (raise c s) :=
  { (Sticky.rfl : Sticky s s) with
    halted := (record_sticky s.faults c).1
    recorded := (record_sticky s.faults c).2
    ringInit := fun r => by cases r <;> exact id
    rsp := List.prefix_append _ _ }

theorem sticky_accept (ph : Phase) (s : State) : Sticky s (accept i ph s) :=
  { (Sticky.rfl : Sticky s s) with ringInit := fun r => by cases r <;> exact id }

theorem Micro.sticky (hop : s.main.op = some i) (hp : Instr.hasPhase i s.main.phase = true) (m : Micro i s t) : Sticky s t where
  halted h := by
    rcases m.faults with hf | ⟨-, c, -, -, hf⟩ <;> rw [hf]
    · exact h
    · exact (record_sticky s.faults c).1 h
  recorded h := by
    rcases m.faults with hf | ⟨-, c, -, -, hf⟩ <;> rw [hf]
    · exact ⟨h, rfl⟩
    · exact (record_sticky s.faults c).2 h
  rxIe h := m.rxIe.mpr (.inl h)
  rxIeSet h := (m.rxIe.mp h).imp_right fun hph => by
    obtain ⟨sel, rfl⟩ := eq_stInit_of_cfg hp (.inl hph)
    exact ⟨sel, hop, hph⟩
  lineOn := m.lineOn
  ringInit r := (m.rings r).initialized_kept
  initialized h := m.initialized.mpr (.inl h)
  cfg := m.cfg
  wireOut := m.wireOut ▸ List.prefix_rfl
  rsp := m.rsp

theorem CommandStep.sticky (h : CommandStep i s t) : Sticky s t := by
  cases h with
  | refused => exact sticky_raise _ s
  | accepted => exact sticky_accept _ s
  | micro hop hp m => exact m.sticky hop hp
  | busy => exact .rfl

theorem OtherStep.sticky (o : OtherStep s t) : Sticky s t where
  halted := by rw [o.faults]; exact id
  recorded := by rw [o.faults]; exact fun h => ⟨h, rfl⟩
  rxIe := by rw [o.rxIe]; exact id
  rxIeSet := by rw [o.rxIe]; exact .inl
  lineOn := by rw [o.lineOn]; exact id
  ringInit r := by rw [o.ringInit]; exact id
  initialized := by rw [o.initialized]; exact id
  cfg := o.cfg
  wireOut := o.wireOut
  rsp := o.rsp ▸ List.prefix_rfl

theorem exec_sticky (h : exec i s = .next t) : Sticky s t := by
  cases hi : i.isCommand with
  | true => exact (exec_commandStep hi h).sticky
  | false =>
    cases i with
    | evRx => exact (evRx_otherStep h).1.sticky
    | evTx => exact (evTx_otherStep h).1.sticky
    | _ => cases hi

/-- What sticks does not depend on the inputs of the run. -/
theorem Sticky.of_inputs {x : Inputs} (h : Sticky { s with inputs := x } t) : Sticky s t :=
  { h with ringInit := fun r => by cases r with
    | rx => exact h.ringInit .rx
    | tx => exact h.ringInit .tx }

theorem mainStep_sticky (h : mainStep s = .next t) : Sticky s t := by
  rcases mainStep_inv h with rfl | ⟨-, i, -, hexec⟩ | ⟨-, -, w, ws, -, ⟨i, -, hexec⟩ | ⟨e, -, rfl⟩⟩
  · exact .rfl
  · exact exec_sticky hexec
  · exact (exec_sticky hexec).of_inputs
  · exact (sticky_raise _ _).of_inputs

theorem step_sticky (h : step s = .next t) : Sticky s t := by
  obtain ⟨sch, d, hcases⟩ := step_inv h
  rcases hcases with hmain | hrx | htx | rfl | rfl
  · exact (mainStep_sticky hmain).of_inputs
  · exact (exec_sticky hrx).of_inputs
  · exact (exec_sticky htx).of_inputs
  · exact (arrive_otherStep _).1.sticky.of_inputs
  · exact (take_otherStep _).1.sticky.of_inputs

/-- A word decodes to a command only: the two events have no command word (R88). -/
theorem isCommand_of_decodeCommand {w : Word} (h : decodeCommand w = .ok i) : i.isCommand = true := by
  unfold decodeCommand at h
  split_ifs at h
  · cases h; rfl
  · unfold decodeRow at h
    split at h
    case h_2 => cases h; rfl
    all_goals
      simp only [decodeR, decodeGie, decodeTI, decodeT] at h
      split_ifs at h
      cases h
      rfl

theorem CommandStep.ringMove (h : Inv s) (hstep : CommandStep i s t) (r : RingId) :
    RingMove (s.cap r) (s.role r) (s.ring r) (t.role r) (t.ring r) := by
  have hfree (hop : s.main.op = none) (q : RingId) : s.role q = .free := State.role_of_idle (h.idle hop) q
  cases hstep with
  | refused hop => exact ringMoves_of_free (hfree hop) (State.role_of_idle rfl) (fun q => by cases q <;> rfl) r
  | accepted hop =>
    have hfirst (q : RingId) : (accept i (firstPhase i) s).role q = .free := roleAt_firstPhase (some i) q i
    exact ringMoves_of_free (hfree hop) hfirst (fun q => by cases q <;> rfl) r
  | micro _ _ m => exact m.rings r
  | busy => exact .keep _ _

/-- MAIN moves each ring by one of its moves, whatever its step (R110). -/
theorem Inv.mainStep_ringMove (h : Inv s) (hstep : Machine.mainStep s = .next t) (r : RingId) :
    RingMove (s.cap r) (s.role r) (s.ring r) (t.role r) (t.ring r) := by
  rcases mainStep_inv hstep with rfl | ⟨-, i, hop, hexec⟩ | ⟨-, hop, w, ws, -, ⟨i, hdec, hexec⟩ | ⟨e, -, rfl⟩⟩
  · exact .keep _ _
  · obtain ⟨hi, -⟩ := h.running hop
    exact (exec_commandStep hi hexec).ringMove h r
  · have hmv := (exec_commandStep (isCommand_of_decodeCommand hdec) hexec).ringMove (h.of_inputs _) r
    cases r <;> exact hmv
  · exact ringMoves_of_free (State.role_of_idle (h.idle hop)) (State.role_of_idle rfl) (fun q => by cases q <;> rfl) r

theorem RingMove.in_kept {cap : Nat} {ρ ρ' : Role} {v v' : Ring} (m : RingMove cap ρ v ρ' v') (h : ¬ ρ.ownsIn)
    (h' : ¬ ρ'.ownsIn) : v'.inp = v.inp ∧ v'.storage = v.storage := by
  cases m with
  | write | moveIn => exact absurd trivial h
  | zeroIn => exact absurd trivial h'
  | _ => exact ⟨rfl, rfl⟩

theorem RingMove.out_kept {cap : Nat} {ρ ρ' : Role} {v v' : Ring} (m : RingMove cap ρ v ρ' v') (h : ¬ ρ.ownsOut) :
    v'.out = v.out := by
  cases m with
  | moveOut | zeroOut => exact absurd trivial h
  | _ => rfl

end

/-- Settles O52: each agent's step is `Sticky`. -/
theorem marksAndRecordsAreSticky : Obligations.MarksAndRecordsAreSticky := by
  intro s t hstep
  have h := step_sticky hstep
  refine ⟨h.halted, h.recorded, h.rxIe, fun hoff hon => ?_, h.lineOn, h.ringInit .rx, h.ringInit .tx, h.initialized, h.cfg,
    h.wireOut, h.rsp⟩
  exact (h.rxIeSet hon).resolve_left (by simp [hoff])

/-- Settles O53: MAIN is no writer of what a running handler writes, and each handler writes its own side of one ring. -/
theorem eachCursorHasOneWriter : Obligations.EachCursorHasOneWriter := by
  refine ⟨fun s t h hstep => ⟨fun hie => ?_, fun hie => ?_⟩, fun i s t hi hstep => ?_⟩
  · have hie' : t.xport.rxIe = true := (mainStep_sticky hstep).rxIe hie
    exact (h.mainStep_ringMove hstep .rx).in_kept (h.not_ownsIn_rx hie) ((h.mainStep hstep).not_ownsIn_rx hie')
  · exact (h.mainStep_ringMove hstep .tx).out_kept (h.not_ownsOut_tx hie)
  · rcases hi with rfl | rfl
    · obtain ⟨-, htx, hrx⟩ := evRx_otherStep hstep
      refine ⟨?_, by rw [htx], by rw [htx]⟩
      rcases hrx with hrx | ⟨-, -, b, hrx⟩ <;> rw [hrx]
      rfl
    · obtain ⟨-, hrx, htx⟩ := evTx_otherStep hstep
      rcases htx with htx | ⟨-, -, htx⟩ <;> rw [hrx, htx]
      · exact ⟨rfl, rfl, rfl⟩
      · exact ⟨rfl, rfl, rfl⟩

end Sys2Proof.Machine
end

section
/-! The operation in progress (R46, D36), and the state after power-on reset (R51, R210). -/

namespace Sys2Proof.Machine

/-- R46: with an operation in progress MAIN's step is that operation's. -/
theorem mainStep_of_running {s : State} {i : Instr} (hirq : s.ctx.inIrq = false) (hop : s.main.op = some i) :
    mainStep s = exec i s := by
  simp [mainStep, hirq, hop]

/-- Settles O6: the head of the schedule is MAIN, whose step is that of the operation in progress. -/
theorem stepRunsTheOperationInProgress : Obligations.StepRunsTheOperationInProgress := by
  intro s sch i hsched hirq hop
  rw [step_of_schedule_cons hsched]
  exact mainStep_of_running hirq hop

/-- Settles O10: every command's step begins at the port, which is busy. -/
theorem busyPortAcceptsNothing : Obligations.BusyPortAcceptsNothing := by
  intro i j s hi hop hne
  cases i with
  | evRx => cases hi
  | evTx => cases hi
  | reservedD x => exact runCommand_busy (m := fun _ => .fault .strayPhase) hop hne
  | _ => exact runCommand_busy hop hne

/-- Settles O11: each value is the one `State.resetWith` writes; the two buffers are eight zero bytes. -/
theorem resetHasTheSpecsValues : Obligations.ResetHasTheSpecsValues := by
  intro c
  exact ⟨rfl, rfl, rfl, rfl, rfl, rfl, rfl, rfl, rfl, rfl, rfl, rfl, rfl, rfl, Vector.toList_replicate, Vector.toList_replicate,
    rfl, rfl, rfl⟩

/-- A ring after power-on reset is empty and in order, whatever its capacity (log 5). -/
theorem ringInv_resetWith (c : Config) (r : RingId) : RingInv (State.resetWith c) r := by
  have hpos : 0 < (State.resetWith c).cap r := by
    cases r
    · exact c.nRx.pos
    · exact c.nTx.pos
  have hring : (State.resetWith c).ring r = Ring.reset := by cases r <;> rfl
  constructor <;> rw [hring]
  · exact ⟨Mem.wf_reset, nofun, hpos, hpos, Nat.zero_le _⟩
  · exact ⟨rfl, fun k hk => absurd hk (Nat.not_lt_zero _)⟩

/-- Settles O12: the rings are empty, MAIN is idle, nothing is enabled and no fault is recorded. -/
theorem resetMeetsTheInvariant : Obligations.ResetMeetsTheInvariant := fun c =>
  .of_rings (ringInv_resetWith c) (mainOk_of_idle rfl) ⟨nofun, nofun, nofun, nofun, nofun, nofun⟩
    ⟨fun _ => ⟨rfl, rfl⟩, nofun, nofun⟩ ⟨rfl, rfl⟩ nofun (Nat.zero_le _)

end Sys2Proof.Machine
end

section
/-! The bit fields of a command word, and the decoder as the inverse of the encoder (R81, R84, R85, R88). -/

namespace Sys2Proof

@[simp] theorem RingId.ofBit_toBit (r : RingId) : RingId.ofBit r.toBit = r := by cases r <;> rfl

@[simp] theorem RingId.toBit_ofBit (b : BitVec 1) : (RingId.ofBit b).toBit = b := by
  rcases BitVec.eq_zero_or_eq_one b with rfl | rfl <;> rfl

/-! Each field is a digit of the word's number, so every fact about a field is one of arithmetic. -/

theorem opField_toNat (w : Word) : (opField w).toNat = w.toNat / 4096 := by
  simp only [opField, BitVec.extractLsb'_toNat, Nat.shiftRight_eq_div_pow]
  omega

theorem ringField_toNat (w : Word) : (ringField w).toNat = w.toNat / 2048 % 2 := by
  simp only [ringField, BitVec.extractLsb'_toNat, Nat.shiftRight_eq_div_pow]

theorem reservedField_toNat (w : Word) : (reservedField w).toNat = w.toNat / 256 % 8 := by
  simp only [reservedField, BitVec.extractLsb'_toNat, Nat.shiftRight_eq_div_pow]

theorem immField_toNat (w : Word) : (immField w).toNat = w.toNat % 256 := by
  simp only [immField, BitVec.extractLsb'_toNat, Nat.shiftRight_zero]

/-- Bits 7:1 of `imm8` (R85(e)). -/
theorem gieBits_toNat (imm : Byte) : (imm.extractLsb' 1 7).toNat = imm.toNat / 2 := by
  simp only [BitVec.extractLsb'_toNat, Nat.shiftRight_eq_div_pow]
  omega

theorem toNat_append_eq_mul_add {m n : Nat} (x : BitVec m) (y : BitVec n) : (x ++ y).toNat = x.toNat * 2 ^ n + y.toNat := by
  rw [BitVec.toNat_append, ← Nat.shiftLeft_add_eq_or_of_lt y.isLt, Nat.shiftLeft_eq]

theorem packWord_toNat (op : BitVec 4) (ring : BitVec 1) (imm : Byte) :
    (packWord op ring imm).toNat = op.toNat * 4096 + ring.toNat * 2048 + imm.toNat := by
  simp only [packWord, toNat_append_eq_mul_add, BitVec.ofNat_eq_ofNat, BitVec.toNat_ofNat]
  omega

@[simp] theorem opField_packWord (op : BitVec 4) (ring : BitVec 1) (imm : Byte) : opField (packWord op ring imm) = op := by
  apply BitVec.eq_of_toNat_eq
  rw [opField_toNat, packWord_toNat]
  omega

@[simp] theorem ringField_packWord (op : BitVec 4) (ring : BitVec 1) (imm : Byte) :
    ringField (packWord op ring imm) = ring := by
  apply BitVec.eq_of_toNat_eq
  rw [ringField_toNat, packWord_toNat]
  omega

@[simp] theorem reservedField_packWord (op : BitVec 4) (ring : BitVec 1) (imm : Byte) :
    reservedField (packWord op ring imm) = 0 := by
  apply BitVec.eq_of_toNat_eq
  rw [reservedField_toNat, packWord_toNat]
  simp only [BitVec.ofNat_eq_ofNat, BitVec.toNat_ofNat]
  omega

@[simp] theorem immField_packWord (op : BitVec 4) (ring : BitVec 1) (imm : Byte) : immField (packWord op ring imm) = imm := by
  apply BitVec.eq_of_toNat_eq
  rw [immField_toNat, packWord_toNat]
  omega

/-- A word whose bits 10:8 are zero is packed from its three other fields (R81). -/
theorem packWord_fields {w : Word} (h : reservedField w = 0) : packWord (opField w) (ringField w) (immField w) = w := by
  have hres : w.toNat / 256 % 8 = 0 := by rw [← reservedField_toNat, h]; rfl
  apply BitVec.eq_of_toNat_eq
  rw [packWord_toNat, opField_toNat, ringField_toNat, immField_toNat]
  omega

@[simp] theorem opField_reserved (x : BitVec 12) : opField ((0xD : BitVec 4) ++ x) = 0xD := BitVec.extractLsb'_append_eq_left

/-- A word of opcode 0xD is that opcode before its other twelve bits (R85(a)). -/
theorem reserved_append {w : Word} (h : opField w = 0xD) : (0xD : BitVec 4) ++ w.extractLsb' 0 12 = w := by
  have hop : w.toNat / 4096 = 13 := by rw [← opField_toNat, h]; rfl
  apply BitVec.eq_of_toNat_eq
  rw [toNat_append_eq_mul_add, BitVec.extractLsb'_toNat, Nat.shiftRight_zero]
  simp only [BitVec.ofNat_eq_ofNat, BitVec.toNat_ofNat]
  omega

/-! Each format reads back what `packWord` put in its place (R81). -/

section
variable (op : BitVec 4) (ring : BitVec 1) (r : RingId) (imm : Byte)

@[simp] theorem decodeR_packWord (mk : RingId → Instr) : decodeR (packWord op r.toBit 0#8) mk = .ok (mk r) := by
  simp [decodeR]

@[simp] theorem decodeRI_packWord (mk : RingId → Byte → Instr) : decodeRI (packWord op r.toBit imm) mk = .ok (mk r imm) := by
  simp [decodeRI]

@[simp] theorem decodeTI_packWord (mk : Byte → Instr) : decodeTI (packWord op 0#1 imm) mk = .ok (mk imm) := by
  simp [decodeTI]

@[simp] theorem decodeT_packWord (i : Instr) : decodeT (packWord op 0#1 0#8) i = .ok i := by
  simp [decodeT]

@[simp] theorem decodeGie_packWord (h : imm.extractLsb' 1 7 = 0) : decodeGie (packWord op 0#1 imm) = .ok (.sysGie imm) := by
  simp only [decodeGie, ringField_packWord, immField_packWord, h, BitVec.ofNat_eq_ofNat, if_true]

/-- A packed word of another opcode than the reserved one goes to its row (R84). -/
theorem decodeCommand_packWord (h : op ≠ 0xD) : decodeCommand (packWord op ring imm) = decodeRow (packWord op ring imm) := by
  rw [decodeCommand, opField_packWord, if_neg h, reservedField_packWord, if_pos rfl]

theorem decodeCommand_reserved (x : BitVec 12) : decodeCommand ((0xD : BitVec 4) ++ x) = .ok (.reservedD x) := by
  rw [decodeCommand, if_pos (opField_reserved x), BitVec.extractLsb'_append_eq_right]

end

/-- Settles O1: the row's format reads back the fields that `packWord` put in their places. -/
theorem decodeOfEncodeIsIdentity : Obligations.DecodeOfEncodeIsIdentity := by
  intro i hwf
  cases i with
  | reservedD x => exact decodeCommand_reserved x
  | evRx | evTx => rfl
  | sysGie imm =>
    have himm : imm.extractLsb' 1 7 = 0 := by simpa [Instr.wf] using hwf
    refine (decodeCommand_packWord _ _ _ (by decide)).trans ?_
    simp [decodeRow, himm]
  | _ =>
    refine (decodeCommand_packWord _ _ _ (by decide)).trans ?_
    simp [decodeRow]

/-- Settles O4: each word is the code of the row it stands for. -/
theorem specWordsDecode : Obligations.SpecWordsDecode :=
  ⟨decodeOfEncodeIsIdentity (.rbInsert .rx 0x41) rfl, decodeOfEncodeIsIdentity (.rbRemove .tx) rfl,
    decodeOfEncodeIsIdentity (.stInit 0x00) rfl, decodeOfEncodeIsIdentity (.stWriteByte 0x4B) rfl,
    decodeOfEncodeIsIdentity (.sysGie 0x01) rfl, decodeOfEncodeIsIdentity .laPoll rfl,
    decodeOfEncodeIsIdentity .evRx rfl, decodeOfEncodeIsIdentity .evTx rfl⟩

/-- The word is the code of the instruction, which is well-formed. -/
def IsCodeOf (w : Word) (i : Instr) : Prop := encode i = .command w ∧ i.wf = true

/-! Conversely a word that a format accepts, its bits 10:8 zero, is the code of what the format makes of it (R85). -/

section
variable {w : Word} {i : Instr} {op : BitVec 4}

/-- With its opcode known, a word of which bits 10:8 are zero is packed from the other two fields. -/
theorem eq_packWord (hop : (opField w).toNat = op.toNat) (hres : reservedField w = 0) :
    w = packWord op (ringField w) (immField w) := by
  rw [← BitVec.eq_of_toNat_eq hop, packWord_fields hres]

theorem isCodeOf_of_decodeR {mk : RingId → Instr} (hop : (opField w).toNat = op.toNat) (hres : reservedField w = 0)
    (h : decodeR w mk = .ok i) (hmk : ∀ r, IsCodeOf (packWord op r.toBit 0) (mk r)) : IsCodeOf w i := by
  unfold decodeR at h
  split_ifs at h with himm
  cases h
  have hcode := hmk (RingId.ofBit (ringField w))
  rwa [RingId.toBit_ofBit, ← himm, ← eq_packWord hop hres] at hcode

theorem isCodeOf_of_decodeRI {mk : RingId → Byte → Instr} (hop : (opField w).toNat = op.toNat) (hres : reservedField w = 0)
    (h : decodeRI w mk = .ok i) (hmk : ∀ r b, IsCodeOf (packWord op r.toBit b) (mk r b)) : IsCodeOf w i := by
  cases h
  have hcode := hmk (RingId.ofBit (ringField w)) (immField w)
  rwa [RingId.toBit_ofBit, ← eq_packWord hop hres] at hcode

theorem isCodeOf_of_decodeTI {mk : Byte → Instr} (hop : (opField w).toNat = op.toNat) (hres : reservedField w = 0)
    (h : decodeTI w mk = .ok i) (hmk : ∀ b, IsCodeOf (packWord op 0 b) (mk b)) : IsCodeOf w i := by
  unfold decodeTI at h
  split_ifs at h with hring
  cases h
  have hcode := hmk (immField w)
  rwa [← hring, ← eq_packWord hop hres] at hcode

theorem isCodeOf_of_decodeT {j : Instr} (hop : (opField w).toNat = op.toNat) (hres : reservedField w = 0)
    (h : decodeT w j = .ok i) (hcode : IsCodeOf (packWord op 0 0) j) : IsCodeOf w i := by
  unfold decodeT at h
  split_ifs at h with hring himm
  cases h
  rwa [← hring, ← himm, ← eq_packWord hop hres] at hcode

theorem isCodeOf_of_decodeGie (hop : (opField w).toNat = 0x7) (hres : reservedField w = 0) (h : decodeGie w = .ok i) :
    IsCodeOf w i := by
  unfold decodeGie at h
  split_ifs at h with hring hgie
  cases h
  have hw := eq_packWord (op := 0x7) hop hres
  rw [hring] at hw
  exact ⟨congrArg Code.command hw.symm, beq_iff_eq.mpr hgie⟩

theorem isCodeOf_of_decodeRow (hop : opField w ≠ 0xD) (hres : reservedField w = 0) (h : decodeRow w = .ok i) : IsCodeOf w i := by
  unfold decodeRow at h
  split at h
  · exact isCodeOf_of_decodeR (op := 0x0) ‹_› hres h fun _ => ⟨rfl, rfl⟩
  · exact isCodeOf_of_decodeRI (op := 0x1) ‹_› hres h fun _ _ => ⟨rfl, rfl⟩
  · exact isCodeOf_of_decodeR (op := 0x2) ‹_› hres h fun _ => ⟨rfl, rfl⟩
  · exact isCodeOf_of_decodeR (op := 0x3) ‹_› hres h fun _ => ⟨rfl, rfl⟩
  · exact isCodeOf_of_decodeR (op := 0x4) ‹_› hres h fun _ => ⟨rfl, rfl⟩
  · exact isCodeOf_of_decodeR (op := 0x5) ‹_› hres h fun _ => ⟨rfl, rfl⟩
  · exact isCodeOf_of_decodeR (op := 0x6) ‹_› hres h fun _ => ⟨rfl, rfl⟩
  · exact isCodeOf_of_decodeGie ‹_› hres h
  · exact isCodeOf_of_decodeTI (op := 0x8) ‹_› hres h fun _ => ⟨rfl, rfl⟩
  · exact isCodeOf_of_decodeTI (op := 0x9) ‹_› hres h fun _ => ⟨rfl, rfl⟩
  · exact isCodeOf_of_decodeT (op := 0xA) ‹_› hres h ⟨rfl, rfl⟩
  · exact isCodeOf_of_decodeT (op := 0xB) ‹_› hres h ⟨rfl, rfl⟩
  · exact isCodeOf_of_decodeT (op := 0xC) ‹_› hres h ⟨rfl, rfl⟩
  · exact isCodeOf_of_decodeT (op := 0xE) ‹_› hres h ⟨rfl, rfl⟩
  · have hF : (opField w).toNat = (0xF : BitVec 4).toNat := by
      have hD : (opField w).toNat ≠ 13 := fun h => hop (BitVec.eq_of_toNat_eq h)
      have hlt := (opField w).isLt
      simp only [imp_false] at *
      change (opField w).toNat = 15
      omega
    exact isCodeOf_of_decodeT hF hres h ⟨rfl, rfl⟩

end

/-- Settles O2: the reserved word keeps its twelve bits, and every other word that decodes is the code of its row. -/
theorem decodedWordsEncodeBack : Obligations.DecodedWordsEncodeBack := by
  intro w i h
  have hcmd := Machine.isCommand_of_decodeCommand h
  suffices IsCodeOf w i from ⟨this.1, this.2, hcmd⟩
  unfold decodeCommand at h
  split_ifs at h with hop hres
  · cases h
    exact ⟨congrArg Code.command (reserved_append hop), rfl⟩
  · exact isCodeOf_of_decodeRow hop hres h

/-! The words that select no operation, format by format and in numbers (R85). -/

/-- Decoding selects no operation: it fails, or gives the reserved row. -/
def NoOperation (d : Except Reject Instr) : Prop := (∃ e, d = .error e) ∨ ∃ x, d = .ok (.reservedD x)

section
variable {w : Word}

theorem noOperation_error (e : Reject) : NoOperation (.error e) := .inl ⟨e, rfl⟩

theorem noOperation_ok_iff {i : Instr} : NoOperation (.ok i) ↔ ∃ x, i = .reservedD x := by simp [NoOperation]

/-- A format answers an operation where its check passes, so it selects none exactly where the check fails. -/
theorem noOperation_ite_iff {c : Prop} [Decidable c] {d : Except Reject Instr} {e : Reject} :
    NoOperation (if c then d else .error e) ↔ (c → NoOperation d) := by
  split_ifs with hc <;> simp [hc, noOperation_error]

theorem ringField_eq_zero_iff : ringField w = 0 ↔ w.toNat / 2048 % 2 = 0 := by
  rw [← ringField_toNat, BitVec.toNat_eq]; rfl

theorem reservedField_eq_zero_iff : reservedField w = 0 ↔ w.toNat / 256 % 8 = 0 := by
  rw [← reservedField_toNat, BitVec.toNat_eq]; rfl

theorem immField_eq_zero_iff : immField w = 0 ↔ w.toNat % 256 = 0 := by
  rw [← immField_toNat, BitVec.toNat_eq]; rfl

theorem opField_eq_reserved_iff : opField w = 0xD ↔ w.toNat / 4096 = 0xD := by
  rw [← opField_toNat, BitVec.toNat_eq]; rfl

theorem gieBits_eq_zero_iff : (immField w).extractLsb' 1 7 = 0 ↔ w.toNat / 2 % 128 = 0 := by
  have h := gieBits_toNat (immField w)
  rw [immField_toNat] at h
  rw [show w.toNat / 2 % 128 = w.toNat % 256 / 2 by omega, ← h, BitVec.toNat_eq]; rfl

/-! What a format answers where it decodes is never the reserved row. -/

theorem noOperation_decodeR_iff {mk : RingId → Instr} (hmk : ∀ r x, mk r ≠ .reservedD x) :
    NoOperation (decodeR w mk) ↔ w.toNat % 256 ≠ 0 := by
  simp only [decodeR, noOperation_ite_iff, noOperation_ok_iff, immField_eq_zero_iff, hmk, exists_false, imp_false, ne_eq]

theorem not_noOperation_decodeRI {mk : RingId → Byte → Instr} (hmk : ∀ r b x, mk r b ≠ .reservedD x) :
    ¬ NoOperation (decodeRI w mk) := by
  simp only [decodeRI, noOperation_ok_iff, hmk, exists_false, not_false_eq_true]

theorem noOperation_decodeTI_iff {mk : Byte → Instr} (hmk : ∀ b x, mk b ≠ .reservedD x) :
    NoOperation (decodeTI w mk) ↔ w.toNat / 2048 % 2 = 1 := by
  simp only [decodeTI, noOperation_ite_iff, noOperation_ok_iff, ringField_eq_zero_iff, hmk, exists_false, imp_false,
    Nat.mod_two_ne_zero]

theorem noOperation_decodeT_iff {i : Instr} (hi : ∀ x, i ≠ .reservedD x) :
    NoOperation (decodeT w i) ↔ w.toNat / 2048 % 2 = 1 ∨ w.toNat % 256 ≠ 0 := by
  simp only [decodeT, noOperation_ite_iff, noOperation_ok_iff, ringField_eq_zero_iff, immField_eq_zero_iff, hi, exists_false,
    imp_false, imp_iff_not_or, Nat.mod_two_ne_zero, ne_eq]

theorem noOperation_decodeGie_iff :
    NoOperation (decodeGie w) ↔ w.toNat / 2048 % 2 = 1 ∨ w.toNat / 2 % 128 ≠ 0 := by
  simp only [decodeGie, noOperation_ite_iff, noOperation_ok_iff, ringField_eq_zero_iff, gieBits_eq_zero_iff, reduceCtorEq,
    exists_false, imp_false, imp_iff_not_or, Nat.mod_two_ne_zero, ne_eq]

/-- R85 (c) to (e): the words of the other rows that select no operation. -/
theorem noOperation_decodeRow_iff (hop : w.toNat / 4096 ≠ 0xD) :
    NoOperation (decodeRow w) ↔
      (w.toNat / 2048 % 2 = 1 ∧ 0x7 ≤ w.toNat / 4096) ∨
      (w.toNat % 256 ≠ 0 ∧ w.toNat / 4096 ∈ [0x0, 0x2, 0x3, 0x4, 0x5, 0x6, 0xA, 0xB, 0xC, 0xE, 0xF]) ∨
      (w.toNat / 4096 = 0x7 ∧ w.toNat / 2 % 128 ≠ 0) := by
  have hlt : w.toNat / 4096 < 16 := by omega
  unfold decodeRow
  rw [opField_toNat]
  revert hop
  generalize w.toNat / 4096 = op at hlt ⊢
  interval_cases op <;>
    simp [noOperation_decodeR_iff, not_noOperation_decodeRI, noOperation_decodeTI_iff, noOperation_decodeT_iff,
      noOperation_decodeGie_iff]

/-- R85 (a) and (b) come before the row. -/
theorem noOperation_decodeCommand_iff :
    NoOperation (decodeCommand w) ↔
      w.toNat / 4096 = 0xD ∨ w.toNat / 256 % 8 ≠ 0 ∨ NoOperation (decodeRow w) := by
  rw [← opField_eq_reserved_iff, ne_eq, ← reservedField_eq_zero_iff, decodeCommand]
  split_ifs with hop hres
  · exact iff_of_true (noOperation_ok_iff.mpr ⟨_, rfl⟩) (.inl hop)
  · simp only [hop, hres, not_true_eq_false, false_or]
  · exact iff_of_true (noOperation_error _) (.inr (.inl hres))

end

/-- Settles O3: the fields are digits of the word's number, and each row selects nothing exactly where its format's check fails. -/
theorem illegalWordsAreThoseOfR85 : Obligations.IllegalWordsAreThoseOfR85 := by
  intro w
  refine noOperation_decodeCommand_iff.trans ?_
  exact or_congr_right' fun hop => or_congr_right (noOperation_decodeRow_iff hop)

end Sys2Proof
end

section
/-! Decimal spellings (R126): the digits of a number, their value, and that no shorter sequence has it (R90, R125). -/

namespace Sys2Proof.Machine

theorem digitByte_toNat {d : Nat} (h : d < 10) : (digitByte d).toNat = 0x30 + d := by
  rw [digitByte, BitVec.toNat_ofNat]
  omega

theorem decimalValue_singleton (d : Byte) : decimalValue [d] = d.toNat - 0x30 := by simp [decimalValue]

theorem decimalValue_append_digit (ds : List Byte) (d : Byte) :
    decimalValue (ds ++ [d]) = 10 * decimalValue ds + (d.toNat - 0x30) := by simp [decimalValue]

/-- A leading zero adds nothing. -/
theorem decimalValue_zero_cons (ds : List Byte) : decimalValue (0x30 :: ds) = decimalValue ds := rfl

theorem isDigits_digitByte {d : Nat} (h : d < 10) : IsDigits [digitByte d] := by
  have := digitByte_toNat h
  refine ⟨List.cons_ne_nil _ _, fun b hb => ?_⟩
  rw [List.mem_singleton.mp hb]
  omega

theorem IsDigits.append {ds es : List Byte} (hd : IsDigits ds) (he : IsDigits es) : IsDigits (ds ++ es) :=
  ⟨List.append_ne_nil_of_left_ne_nil hd.1 _, fun b hb => (List.mem_append.mp hb).elim (hd.2 b) (he.2 b)⟩

/-- `k` digits have a value below `10 ^ k`. -/
theorem decimalValue_lt {ds : List Byte} (h : ∀ d ∈ ds, d.toNat ≤ 0x39) : decimalValue ds < 10 ^ ds.length := by
  induction ds using List.reverseRecOn with
  | nil => simp [decimalValue]
  | append_singleton ds d ih =>
    have hds := ih fun b hb => h b (List.mem_append_left _ hb)
    have hd := h d (by simp)
    rw [decimalValue_append_digit, List.length_append, List.length_singleton, pow_succ]
    omega

theorem decDigits_spells {fuel n : Nat} (h : n < 10 ^ fuel) (hfuel : fuel ≠ 0) :
    IsDigits (decDigits fuel n) ∧ decimalValue (decDigits fuel n) = n := by
  induction fuel generalizing n with
  | zero => exact absurd rfl hfuel
  | succ fuel ih =>
    unfold decDigits
    split
    next hn =>
      rw [decimalValue_singleton, digitByte_toNat hn]
      exact ⟨isDigits_digitByte hn, by omega⟩
    next hn =>
      have hlast : n % 10 < 10 := Nat.mod_lt _ (by decide)
      have hfuel' : fuel ≠ 0 := by rintro rfl; omega
      obtain ⟨hdigits, hvalue⟩ := ih (n := n / 10) (by rw [pow_succ] at h; omega) hfuel'
      rw [decimalValue_append_digit, digitByte_toNat hlast, hvalue]
      exact ⟨hdigits.append (isDigits_digitByte hlast), by omega⟩

theorem length_decDigits_le {fuel n k : Nat} (h : n < 10 ^ k) (hk : k ≠ 0) : (decDigits fuel n).length ≤ k := by
  induction fuel generalizing n k with
  | zero => exact Nat.zero_le k
  | succ fuel ih =>
    obtain ⟨k, rfl⟩ := Nat.exists_eq_succ_of_ne_zero hk
    unfold decDigits
    split
    · simp
    next hn =>
      have hk' : k ≠ 0 := by rintro rfl; omega
      have := ih (n := n / 10) (by rw [pow_succ] at h; omega) hk'
      simpa using this

/-- No sequence of digits is shorter than the one `decDigits` gives for the same value. -/
theorem length_decDigits_le_of_value {fuel : Nat} {ds : List Byte} (h : IsDigits ds) :
    (decDigits fuel (decimalValue ds)).length ≤ ds.length := by
  obtain ⟨hne, hdigit⟩ := h
  exact length_decDigits_le (decimalValue_lt fun d hd => (hdigit d hd).2) (by simpa using hne)

/-- A leading zero that other digits follow could be left out, and the spelling is the shortest. -/
theorem decDigits_eq_zero_of_head {fuel n : Nat} (h : n < 10 ^ fuel) (hfuel : fuel ≠ 0)
    (hhead : (decDigits fuel n).head? = some 0x30) : decDigits fuel n = [0x30] := by
  obtain ⟨⟨-, hdigit⟩, hvalue⟩ := decDigits_spells h hfuel
  obtain ⟨rest, hrest⟩ := List.head?_eq_some_iff.mp hhead
  rw [hrest, decimalValue_zero_cons] at hvalue
  rw [hrest] at hdigit ⊢
  by_contra hlong
  have hne : rest ≠ [] := fun h => hlong (by rw [h])
  have hlen := length_decDigits_le_of_value (fuel := fuel) ⟨hne, fun d hd => hdigit d (List.mem_cons_of_mem _ hd)⟩
  rw [hvalue, hrest, List.length_cons] at hlen
  omega

/-- Five digits are enough for the magnitude of a signed 16-bit number. -/
theorem natAbs_toInt_lt (v : Word) : v.toInt.natAbs < 10 ^ 5 := by
  have hlt := BitVec.toInt_lt (x := v)
  have hle := BitVec.le_toInt (x := v)
  omega

/-- Settles O51: the digits are `decDigits` of the magnitude, which spell it and are as few as any that do. -/
theorem pseudoOperationsExpand : Obligations.PseudoOperationsExpand := by
  refine ⟨fun bs k => List.getElem?_map, fun v => rfl, fun v => ?_⟩
  have hlt := natAbs_toInt_lt v
  obtain ⟨hdigits, hvalue⟩ := decDigits_spells hlt (by decide)
  refine ⟨decDigits 5 v.toInt.natAbs, ?_, hdigits, hvalue, decDigits_eq_zero_of_head hlt (by decide), fun other ho hv => ?_⟩
  · unfold dec; split <;> rfl
  · rw [← hv]; exact length_decDigits_le_of_value ho

end Sys2Proof.Machine
end

section
/-! The checks of R86 in the command and the registers it reads, and the answers of idle MAIN (R85, R111, R122, R123, R183, R185). -/

namespace Sys2Proof.Machine

section
variable {i : Instr} {s : State}

/-- R85(e), of the operand's number. -/
theorem wf_sysGie_iff {imm : Byte} : (Instr.sysGie imm).wf = false ↔ 1 < imm.toNat := by
  rw [Instr.wf, beq_eq_false_iff_ne, ne_eq, BitVec.toNat_eq, BitVec.extractLsb'_toNat, Nat.shiftRight_eq_div_pow]
  simp only [BitVec.ofNat_eq_ofNat, BitVec.toNat_ofNat]
  omega

/-- Check (2) of R86: R85 (a), (e) and (f). -/
theorem illegalHere_iff :
    illegalHere i s = true ↔
      (∃ x, i = .reservedD x) ∨ (∃ imm : Byte, i = .sysGie imm ∧ 1 < imm.toNat) ∨
        (i = .laPoll ∨ i = .laDispatch) ∧ s.cfg.hasClient = false := by
  cases i with
  | sysGie imm => simp [illegalHere, wf_sysGie_iff]
  | _ => simp [illegalHere, Instr.wf]

/-- Check (3) of R86 on a command that needs initialization (R185). -/
theorem initFault_uninit_iff :
    initFault i s = some .uninit ↔
      (∃ r, ((∃ b, i = .rbInsert r b) ∨ i = .rbRemove r ∨ i = .rbCount r ∨ i = .rbIsempty r ∨ i = .rbIsfull r ∨ i = .rbFlush r) ∧
        (s.ring r).initialized = false) ∨
      ((∃ b, i = .stWriteByte b) ∨ i = .stReadByte ∨ i = .stAvail ∨ i = .stWaitTc ∨ i = .laPoll ∨ i = .laDispatch) ∧
        s.xport.initialized = false := by
  cases i <;> simp [initFault]

/-- Check (3) of R86 on a second `ST_INIT` (R123). -/
theorem initFault_reinit_iff :
    initFault i s = some .reinit ↔ (∃ sel, i = .stInit sel) ∧ s.xport.initialized = true := by
  cases i <;> simp [initFault]

/-- Check (4) of R86 (R111). -/
theorem breaksOwnership_iff :
    breaksOwnership i s = true ↔
      (i = .rbInit .rx ∨ ∃ b, i = .rbInsert .rx b) ∧ s.xport.rxIe = true ∨
      (i = .rbInit .tx ∨ i = .rbRemove .tx ∨ i = .rbFlush .tx) ∧ s.xport.txIe = true := by
  cases i with
  | rbInit r | rbInsert r _ | rbRemove r | rbFlush r => cases r <;> simp [breaksOwnership]
  | _ => simp [breaksOwnership]

/-- Check (5) of R86 (R122; log 15). -/
theorem badConfig_iff : badConfig i s = true ↔ ∃ sel, i = .stInit sel ∧ sel ∉ s.cfg.baudValid := by
  cases i <;> simp [badConfig]

/-! The answer of the first check that fails. -/

theorem precheck_of_halted (h : s.faults.halted = true) : precheck i s = some .halted := by
  rw [precheck, if_pos h]

theorem precheck_of_illegal (h : s.faults.halted = false) (hill : illegalHere i s = true) : precheck i s = some .illegal := by
  simp [precheck, h, hill]

theorem precheck_of_initFault {c : ResultCode} (h : s.faults.halted = false) (hill : illegalHere i s = false)
    (hinit : initFault i s = some c) : precheck i s = some c := by
  simp [precheck, h, hill, hinit]

theorem precheck_of_ownership (h : s.faults.halted = false) (hill : illegalHere i s = false) (hinit : initFault i s = none)
    (hown : breaksOwnership i s = true) : precheck i s = some .ownership := by
  simp [precheck, h, hill, hinit, hown]

theorem precheck_of_config (h : s.faults.halted = false) (hill : illegalHere i s = false) (hinit : initFault i s = none)
    (hown : breaksOwnership i s = false) (hconf : badConfig i s = true) : precheck i s = some .config := by
  simp [precheck, h, hill, hinit, hown, hconf]

theorem initFault_none (hu : initFault i s ≠ some .uninit) (hr : initFault i s ≠ some .reinit) : initFault i s = none := by
  rw [Option.eq_none_iff_forall_ne_some]
  rintro c hc
  rcases initFault_eq hc with rfl | rfl
  · exact hu hc
  · exact hr hc

theorem exec_of_failed_check {c : ResultCode} (hi : i.isCommand = true) (hop : s.main.op = none) (hc : precheck i s = some c) :
    exec i s = .next (raise c s) := by
  rw [exec_idle hi hop, hc]

theorem exec_of_passed_checks (hi : i.isCommand = true) (hop : s.main.op = none) (hc : precheck i s = none) :
    exec i s = .next (accept i (firstPhase i) s) := by
  rw [exec_idle hi hop, hc]

/-- With MAIN idle, a fault other than `F_CONFIG` writes the record and the response alone (R183). -/
theorem raise_of_idle {c : ResultCode} (hmain : s.main = MainSeq.idle) (hc : c ≠ .config) :
    raise c s =
      { s with
        faults := { halted := s.faults.halted, seen := true, code := if s.faults.seen = true then s.faults.code else c.num }
        outputs.rsp := s.outputs.rsp ++ [rspWord c 0] } := by
  rw [raise_eq, ← hmain, FaultRecord.record, if_neg hc]

end

/-- Settles O9: the first check that fails gives the code that `raise` answers, and with none failing the command is accepted. -/
theorem checksDecideInOrder : Obligations.ChecksDecideInOrder := by
  intro i s hi hop illegal uninit reinit ownership config answer
  have hill : illegalHere i s = true ↔ illegal := illegalHere_iff
  have hun : initFault i s = some .uninit ↔ uninit := initFault_uninit_iff
  have hre : initFault i s = some .reinit ↔ reinit := initFault_reinit_iff
  have hown : breaksOwnership i s = true ↔ ownership := breaksOwnership_iff
  have hconf : badConfig i s = true ↔ config := badConfig_iff
  rw [← hill, ← hun, ← hre, ← hown, ← hconf]
  simp only [Bool.not_eq_true]
  refine ⟨?_, ?_, ?_, ?_, ?_, ?_, ?_⟩
  · exact fun hh => exec_of_failed_check hi hop (precheck_of_halted hh)
  · exact fun hh h => exec_of_failed_check hi hop (precheck_of_illegal hh h)
  · exact fun hh h2 h => exec_of_failed_check hi hop (precheck_of_initFault hh h2 h)
  · exact fun hh h2 h => exec_of_failed_check hi hop (precheck_of_initFault hh h2 h)
  · exact fun hh h2 hu hr h => exec_of_failed_check hi hop (precheck_of_ownership hh h2 (initFault_none hu hr) h)
  · exact fun hh h2 hu hr h4 h => exec_of_failed_check hi hop (precheck_of_config hh h2 (initFault_none hu hr) h4 h)
  · exact fun hh h2 hu hr h4 h5 =>
      exec_of_passed_checks hi hop (precheck_none_iff.mpr ⟨hh, h2, initFault_none hu hr, h4, h5⟩)

/-- R86: a word that decodes to nothing is consumed and answered. -/
theorem mainStep_of_not_decoded {s : State} {w : Word} {ws : List Word} {e : Reject} (hirq : s.ctx.inIrq = false)
    (hop : s.main.op = none) (hcmds : s.inputs.cmds = w :: ws) (hdec : decodeCommand w = .error e) :
    mainStep s = .next (rejectWord { s with inputs.cmds := ws }) := by
  simp [mainStep, hirq, hop, hcmds, hdec]

/-- Settles O7: the code is `F_HALTED` or `F_ILLEGAL`, neither of which halts. -/
theorem stepAnswersAnIllegalWord : Obligations.StepAnswersAnIllegalWord := by
  intro s sch w ws e hsched hirq hmain hcmds hdec
  have hc : (if s.faults.halted = true then ResultCode.halted else .illegal) ≠ .config := by split <;> decide
  let u : State := { s with inputs.schedule := sch }
  have hstep : mainStep u = .next (rejectWord { u with inputs.cmds := ws }) :=
    mainStep_of_not_decoded hirq (congrArg MainSeq.op hmain) hcmds hdec
  refine ⟨_, rfl, ?_⟩
  rw [step_of_schedule_cons hsched]
  exact hstep.trans (congrArg Host.Outcome.next (raise_of_idle hmain hc))

/-- Settles O31: the reserved row is illegal by itself, whatever its operand. -/
theorem reservedOpcodeIsIllegal : Obligations.ReservedOpcodeIsIllegal := by
  intro x s hmain hh
  rw [exec_of_failed_check rfl (congrArg MainSeq.op hmain) (precheck_of_illegal hh rfl), raise_of_idle hmain (by decide), hh]
  rfl

end Sys2Proof.Machine
end

section
/-! The status ports (R80(e), R87), and that no step takes back the definition of a status register (R52, log 8). -/

namespace Sys2Proof.Machine

/-- A status register that is defined stays so. -/
def StatusDefined (s t : State) : Prop :=
  (s.xport.rxStatusSet = true → t.xport.rxStatusSet = true) ∧ (s.xport.txStatusSet = true → t.xport.txStatusSet = true)

/-- The result, where it is a next state, leaves the status registers of `s` defined. -/
def Result.KeepsDefined (s : State) : Result → Prop
  | .next t => StatusDefined s t
  | .fault _ => True
  | .refused _ => True

section
variable {s t : State}

theorem StatusDefined.rfl : StatusDefined s s := ⟨id, id⟩

/-- The inputs of the run do not say which registers are defined. -/
theorem StatusDefined.of_inputs {x : Inputs} (h : StatusDefined { s with inputs := x } t) : StatusDefined s t := h

theorem statusDefined_of_xport (h : t.xport = s.xport) : StatusDefined s t := by
  unfold StatusDefined; rw [h]; exact ⟨id, id⟩

@[simp] theorem keepsDefined_next : Result.KeepsDefined s (.next t) ↔ StatusDefined s t := Iff.rfl

@[simp] theorem keepsDefined_fault (f : Fault) : Result.KeepsDefined s (.fault f) := trivial

theorem keepsDefined_of_next {m : Result} (h : ∀ t, m = .next t → StatusDefined s t) : Result.KeepsDefined s m := by
  cases m with
  | next t => exact h t (Eq.refl _)
  | fault f => trivial
  | refused f => trivial

/-! The micro-steps that several commands share write no status register (R102, R104, R124). -/

@[simp] theorem keepsDefined_stepI1 (r : RingId) (b : Byte) : Result.KeepsDefined s (stepI1 r b s) :=
  keepsDefined_of_next fun t h => by
    obtain ⟨-, rfl⟩ := stepI1_inv h
    exact statusDefined_of_xport (by simp)

@[simp] theorem keepsDefined_stepI2 (r : RingId) : Result.KeepsDefined s (stepI2 r s) :=
  statusDefined_of_xport (by simp)

@[simp] theorem keepsDefined_stepI3 (r : RingId) (k : State → State) :
    Result.KeepsDefined s (stepI3 r k s) ↔ StatusDefined s (k (countUp r s)) := by
  rw [stepI3, atomically_countUp, keepsDefined_next]

@[simp] theorem keepsDefined_stepX1 (r : RingId) : Result.KeepsDefined s (stepX1 r s) :=
  keepsDefined_of_next fun t h => by
    obtain ⟨-, b, d, rfl, -⟩ := stepX1_inv h
    exact .rfl

@[simp] theorem keepsDefined_stepX2 (r : RingId) : Result.KeepsDefined s (stepX2 r s) :=
  statusDefined_of_xport (by simp)

@[simp] theorem keepsDefined_stepX3 (r : RingId) (k : State → State) :
    Result.KeepsDefined s (stepX3 r k s) ↔ StatusDefined s (k (countDown r s)) := by
  rw [stepX3, atomically_countDown, keepsDefined_next]

@[simp] theorem keepsDefined_stepW1 : Result.KeepsDefined s (stepW1 s) := by
  simp only [stepW1, atomicCount_eq]
  split <;> exact .rfl

/-! The micro-steps of each command. -/

theorem microRbInit_keepsDefined (r : RingId) : Result.KeepsDefined s (microRbInit r s) := by
  unfold microRbInit
  split <;> simp [StatusDefined]

theorem microRbInsert_keepsDefined (r : RingId) (b : Byte) : Result.KeepsDefined s (microRbInsert r b s) := by
  unfold microRbInsert
  split <;> simp [StatusDefined, apply_ite State.xport]

theorem microRbRemove_keepsDefined (r : RingId) : Result.KeepsDefined s (microRbRemove r s) := by
  unfold microRbRemove
  split <;> simp [StatusDefined, apply_ite State.xport]

theorem microRbFlush_keepsDefined (r : RingId) : Result.KeepsDefined s (microRbFlush r s) := by
  unfold microRbFlush
  split <;> simp [StatusDefined, apply_ite State.xport]

theorem microStInit_keepsDefined (sel : Byte) : Result.KeepsDefined s (microStInit sel s) := by
  unfold microStInit
  split <;> simp [StatusDefined]

theorem microStWriteByte_keepsDefined (b : Byte) : Result.KeepsDefined s (microStWriteByte b s) := by
  unfold microStWriteByte
  split <;> simp [StatusDefined]

theorem microStReadByte_keepsDefined : Result.KeepsDefined s (microStReadByte s) := by
  unfold microStReadByte
  split <;> simp [StatusDefined]

theorem microStWaitTc_keepsDefined : Result.KeepsDefined s (microStWaitTc s) := by
  unfold microStWaitTc
  split <;> simp [StatusDefined]

theorem storeByte_xport : (storeByte s).xport = s.xport := by
  unfold storeByte; split <;> rfl

theorem microLaPoll_keepsDefined : Result.KeepsDefined s (microLaPoll s) := by
  unfold microLaPoll
  split <;> simp [StatusDefined, storeByte_xport, apply_ite State.xport]

/-- Routing, and the start of a query, write no register (R167, R169). -/
theorem routeCommand_xport : (routeCommand s).xport = s.xport := by
  unfold routeCommand query
  split
  · rfl
  · split
    · split
      · rfl
      · split <;> rfl
    · split <;> rfl

theorem assignKey_parsedValue_xport (key : Byte) (v : Word) : (assignKey key v (parsedValue s).2).xport = s.xport := by
  obtain ⟨d, hd⟩ := parsedValue_inv s
  obtain ⟨x, calls, ha⟩ := assignKey_inv key v (parsedValue s).2
  rw [ha, hd]

theorem microLaDispatch_keepsDefined : Result.KeepsDefined s (microLaDispatch s) := by
  unfold microLaDispatch
  split
  case h_1 => exact statusDefined_of_xport routeCommand_xport
  case h_3 => split <;> simp
  case h_7 => exact statusDefined_of_xport (assignKey_parsedValue_xport _ _)
  all_goals simp [StatusDefined, sentByte]

/-! Every step of every agent. -/

theorem runCommand_keepsDefined {i : Instr} {p : Phase} {m : State → Result} (hm : Result.KeepsDefined s (m s)) :
    Result.KeepsDefined s (runCommand i p m s) :=
  keepsDefined_of_next fun t h => by
    rcases runCommand_inv h with ⟨-, c, -, rfl⟩ | ⟨-, -, rfl⟩ | ⟨-, -, hmicro⟩ | ⟨_, -, -, rfl⟩
    · exact .rfl
    · exact .rfl
    · rwa [hmicro] at hm
    · exact .rfl

/-- The handlers write one status register each, which defines it (R142, R144). -/
theorem exec_keepsDefined (i : Instr) (s : State) : Result.KeepsDefined s (exec i s) := by
  cases i with
  | rbInit r => exact runCommand_keepsDefined (microRbInit_keepsDefined r)
  | rbInsert r b => exact runCommand_keepsDefined (microRbInsert_keepsDefined r b)
  | rbRemove r => exact runCommand_keepsDefined (microRbRemove_keepsDefined r)
  | rbFlush r => exact runCommand_keepsDefined (microRbFlush_keepsDefined r)
  | stInit sel => exact runCommand_keepsDefined (microStInit_keepsDefined sel)
  | stWriteByte b => exact runCommand_keepsDefined (microStWriteByte_keepsDefined b)
  | stReadByte => exact runCommand_keepsDefined microStReadByte_keepsDefined
  | stWaitTc => exact runCommand_keepsDefined microStWaitTc_keepsDefined
  | laPoll => exact runCommand_keepsDefined microLaPoll_keepsDefined
  | laDispatch => exact runCommand_keepsDefined microLaDispatch_keepsDefined
  | reservedD x => exact runCommand_keepsDefined (m := fun _ => .fault .strayPhase) trivial
  | rbCount r | rbIsempty r | rbIsfull r | sysGie imm | stAvail => exact runCommand_keepsDefined (statusDefined_of_xport rfl)
  | evRx =>
    refine keepsDefined_of_next fun t h => ?_
    rcases runHandler_inv h with ⟨-, rfl⟩ | ⟨-, u, hu, rfl⟩
    · exact .rfl
    · rcases evRxBody_inv hu with ⟨-, rfl⟩ | ⟨-, -, rfl⟩
      · exact ⟨fun _ => rfl, id⟩
      · exact ⟨fun _ => rfl, id⟩
  | evTx =>
    refine keepsDefined_of_next fun t h => ?_
    rcases runHandler_inv h with ⟨-, rfl⟩ | ⟨-, u, hu, rfl⟩
    · exact .rfl
    · rcases evTxBody_inv hu with ⟨-, rfl⟩ | ⟨-, -, b, d, rfl, -⟩
      · exact ⟨id, fun _ => rfl⟩
      · exact ⟨id, fun _ => rfl⟩

theorem exec_statusDefined {i : Instr} (h : exec i s = .next t) : StatusDefined s t := by
  have := exec_keepsDefined i s
  rwa [h] at this

theorem mainStep_statusDefined (h : mainStep s = .next t) : StatusDefined s t := by
  rcases mainStep_inv h with rfl | ⟨-, i, -, hexec⟩ | ⟨-, -, w, ws, -, ⟨i, -, hexec⟩ | ⟨e, -, rfl⟩⟩
  · exact .rfl
  · exact exec_statusDefined hexec
  · exact (exec_statusDefined hexec).of_inputs
  · exact .rfl

theorem arrive_xport : (arrive s).xport = s.xport := by
  unfold arrive
  split
  · rfl
  · split
    · rfl
    · split <;> rfl

theorem take_xport : (take s).xport = s.xport := by
  unfold take; split <;> rfl

theorem step_statusDefined (h : step s = .next t) : StatusDefined s t := by
  obtain ⟨sch, d, hcases⟩ := step_inv h
  rcases hcases with hmain | hrx | htx | rfl | rfl
  · exact (mainStep_statusDefined hmain).of_inputs
  · exact (exec_statusDefined hrx).of_inputs
  · exact (exec_statusDefined htx).of_inputs
  · exact statusDefined_of_xport arrive_xport
  · exact statusDefined_of_xport take_xport

theorem rxStatusPort_of_set (h : s.xport.rxStatusSet = true) (k : Nat) : s.rxStatusPort k = s.xport.rxStatus.code := if_pos h

theorem txStatusPort_of_set (h : s.xport.txStatusSet = true) (k : Nat) : s.txStatusPort k = s.xport.txStatus.code := if_pos h

end

/-- Settles O55: the port answers the register's code, and every step's writes of a status register define it. -/
theorem statusPortsReadTheRegisters : Obligations.StatusPortsReadTheRegisters := by
  refine ⟨fun s k => ⟨fun h => ?_, fun h => ?_⟩, fun s t => step_statusDefined⟩
  · rw [rxStatusPort_of_set h]; cases s.xport.rxStatus <;> rfl
  · rw [txStatusPort_of_set h]; cases s.xport.txStatus <;> rfl

end Sys2Proof.Machine
end

section
/-! The micro-steps of the ring commands (R101 to R110), `ST_AVAIL` among the counting ones (R128). -/

namespace Sys2Proof.Machine

section
variable {r : RingId} {b : Byte} {i : Instr} {ph : Phase} {s : State}

/-! A command in progress takes the micro-step that the phase names. -/

theorem exec_rbInit_of_runs (h : s.runs (.rbInit r) ph) (hp : Instr.hasPhase (.rbInit r) ph = true) :
    exec (.rbInit r) s = microRbInit r s :=
  runCommand_running h.1 (h.2 ▸ hp)

theorem exec_rbInsert_of_runs (h : s.runs (.rbInsert r b) ph) (hp : Instr.hasPhase (.rbInsert r b) ph = true) :
    exec (.rbInsert r b) s = microRbInsert r b s :=
  runCommand_running h.1 (h.2 ▸ hp)

theorem exec_rbRemove_of_runs (h : s.runs (.rbRemove r) ph) (hp : Instr.hasPhase (.rbRemove r) ph = true) :
    exec (.rbRemove r) s = microRbRemove r s :=
  runCommand_running h.1 (h.2 ▸ hp)

theorem exec_rbFlush_of_runs (h : s.runs (.rbFlush r) ph) (hp : Instr.hasPhase (.rbFlush r) ph = true) :
    exec (.rbFlush r) s = microRbFlush r s :=
  runCommand_running h.1 (h.2 ▸ hp)

/-! The lines of R101. -/

theorem exec_rbInit_initIn (h : s.runs (.rbInit r) (.initIn r)) :
    exec (.rbInit r) s = .next (goto (.initOut r) (s.setRing r { s.ring r with inp := 0 })) := by
  rw [exec_rbInit_of_runs h (by simp [Instr.hasPhase])]; simp only [microRbInit, h.2]; rfl

theorem exec_rbInit_initOut (h : s.runs (.rbInit r) (.initOut r)) :
    exec (.rbInit r) s = .next (goto (.initCount r) (s.setRing r { s.ring r with out := 0 })) := by
  rw [exec_rbInit_of_runs h (by simp [Instr.hasPhase])]; simp only [microRbInit, h.2]; rfl

theorem exec_rbInit_initCount (h : s.runs (.rbInit r) (.initCount r)) :
    exec (.rbInit r) s = .next (goto (.initMark r) (s.setRing r { s.ring r with count := 0 })) := by
  rw [exec_rbInit_of_runs h (by simp [Instr.hasPhase])]; simp only [microRbInit, h.2, initCountStep_eq]

theorem exec_rbInit_initMark (h : s.runs (.rbInit r) (.initMark r)) :
    exec (.rbInit r) s = .next (ret 0 (s.setRing r { s.ring r with initialized := true })) := by
  rw [exec_rbInit_of_runs h (by simp [Instr.hasPhase])]; simp only [microRbInit, h.2]; rfl

/-! I0 to I3 (R102, R103). -/

theorem exec_rbInsert_i0 (h : s.runs (.rbInsert r b) .i0) :
    exec (.rbInsert r b) s = .next (if (s.ring r).count.toNat = s.cap r then raise .insertFull s else goto .i1 s) := by
  rw [exec_rbInsert_of_runs h rfl]; simp only [microRbInsert, h.2, atomicCount_eq, isFullCount_iff]

theorem exec_rbInsert_i1 (h : s.runs (.rbInsert r b) .i1) (hin : (s.ring r).inp < s.cap r) :
    exec (.rbInsert r b) s =
      .next (goto .i2 (s.setRing r { s.ring r with storage := Mem.write (s.ring r).storage (s.ring r).inp b })) := by
  rw [exec_rbInsert_of_runs h rfl]; simp only [microRbInsert, h.2, stepI1_ok hin]

theorem exec_rbInsert_i2 (h : s.runs (.rbInsert r b) .i2) :
    exec (.rbInsert r b) s = .next (goto .i3 (s.setRing r { s.ring r with inp := wrap (s.cap r) (s.ring r).inp })) := by
  rw [exec_rbInsert_of_runs h rfl]; simp only [microRbInsert, h.2]; rfl

theorem exec_rbInsert_i3 (h : s.runs (.rbInsert r b) .i3) :
    exec (.rbInsert r b) s = .next (ret 0 (s.setRing r { s.ring r with count := (s.ring r).count + 1 })) := by
  rw [exec_rbInsert_of_runs h rfl]; simp only [microRbInsert, h.2, stepI3, atomically_countUp]; rfl

/-! X1 and X2, which a remove and a flush share (R104, R109), then what is each one's own. -/

/-- X1 of MAIN on a slot that was never written (R21, log 7). -/
theorem stepX1_unwritten (h : (s.ring r).out < s.cap r) (hb : s.slot r (s.ring r).out = none) :
    stepX1 r s = .next { s with
      main.byte := Config.freeByte s.inputs.draws, main.phase := .x2, inputs.draws := s.inputs.draws + 1 } := by
  simp [stepX1, slotRead, h, hb]

theorem exec_x1 (hi : i = .rbRemove r ∨ i = .rbFlush r) (h : s.runs i .x1) : exec i s = stepX1 r s := by
  rcases hi with rfl | rfl
  · rw [exec_rbRemove_of_runs h rfl]; simp only [microRbRemove, h.2]
  · rw [exec_rbFlush_of_runs h rfl]; simp only [microRbFlush, h.2]

theorem exec_x1_written (hi : i = .rbRemove r ∨ i = .rbFlush r) (h : s.runs i .x1) (hout : (s.ring r).out < s.cap r)
    (hb : s.slot r (s.ring r).out = some b) : exec i s = .next { s with main.byte := b, main.phase := .x2 } := by
  rw [exec_x1 hi h, stepX1_ok hout hb]

theorem exec_x1_unwritten (hi : i = .rbRemove r ∨ i = .rbFlush r) (h : s.runs i .x1) (hout : (s.ring r).out < s.cap r)
    (hb : s.slot r (s.ring r).out = none) :
    ∃ c, exec i s = .next { s with main.byte := c, main.phase := .x2, inputs.draws := s.inputs.draws + 1 } :=
  ⟨_, by rw [exec_x1 hi h, stepX1_unwritten hout hb]⟩

theorem exec_x2 (hi : i = .rbRemove r ∨ i = .rbFlush r) (h : s.runs i .x2) :
    exec i s = .next (goto .x3 (s.setRing r { s.ring r with out := wrap (s.cap r) (s.ring r).out })) := by
  rcases hi with rfl | rfl
  · rw [exec_rbRemove_of_runs h rfl]; simp only [microRbRemove, h.2]; rfl
  · rw [exec_rbFlush_of_runs h rfl]; simp only [microRbFlush, h.2]; rfl

theorem exec_rbRemove_x0 (h : s.runs (.rbRemove r) .x0) :
    exec (.rbRemove r) s = .next (if (s.ring r).count = 0 then raise .removeEmpty s else goto .x1 s) := by
  rw [exec_rbRemove_of_runs h rfl]; simp only [microRbRemove, h.2, atomicCount_eq, isEmptyCount_iff]

theorem exec_rbRemove_x3 (h : s.runs (.rbRemove r) .x3) :
    exec (.rbRemove r) s =
      .next (ret (s.main.byte.zeroExtend 16) (s.setRing r { s.ring r with count := (s.ring r).count - 1 })) := by
  rw [exec_rbRemove_of_runs h rfl]; simp only [microRbRemove, h.2, stepX3, atomically_countDown]; rfl

theorem exec_rbFlush_f1 (h : s.runs (.rbFlush r) .f1) :
    exec (.rbFlush r) s = .next (if (s.ring r).count = 0 then ret 0 s else goto .x1 s) := by
  rw [exec_rbFlush_of_runs h rfl]; simp only [microRbFlush, h.2, atomicCount_eq, isEmptyCount_iff]

theorem exec_rbFlush_x3 (h : s.runs (.rbFlush r) .x3) :
    exec (.rbFlush r) s = .next (goto .f1 (s.setRing r { s.ring r with count := (s.ring r).count - 1 })) := by
  rw [exec_rbFlush_of_runs h rfl]; simp only [microRbFlush, h.2, stepX3, atomically_countDown]; rfl

end

/-- Settles O15: one rule for each line of R101. -/
theorem rbInitMicroSteps : Obligations.RbInitMicroSteps := fun _ _ =>
  ⟨exec_rbInit_initIn, exec_rbInit_initOut, exec_rbInit_initCount, exec_rbInit_initMark⟩

/-- Settles O17: I0 goes either way by the test for a full ring. -/
theorem rbInsertMicroSteps : Obligations.RbInsertMicroSteps := by
  refine fun r b s => ⟨fun h hc => ?_, fun h hc => ?_, exec_rbInsert_i1, exec_rbInsert_i2, exec_rbInsert_i3⟩
  · rw [exec_rbInsert_i0 h, if_neg hc]
  · rw [exec_rbInsert_i0 h, if_pos hc]

/-- Settles O19: X0 goes either way by the test for an empty ring, X1 by whether the slot was ever written. -/
theorem rbRemoveMicroSteps : Obligations.RbRemoveMicroSteps := by
  refine fun r b s => ⟨fun h hc => ?_, fun h hc => ?_, exec_x1_written (.inl rfl), exec_x1_unwritten (.inl rfl),
    exec_x2 (.inl rfl), exec_rbRemove_x3⟩
  · rw [exec_rbRemove_x0 h, if_neg hc]
  · rw [exec_rbRemove_x0 h, if_pos hc]

/-- Settles O24: F1 ends the loop on an empty ring; X1 and X2 are those of a remove. -/
theorem rbFlushMicroSteps : Obligations.RbFlushMicroSteps := by
  refine fun r b s => ⟨fun h hc => ?_, fun h hc => ?_, exec_x1_written (.inr rfl), exec_x1_unwritten (.inr rfl),
    exec_x2 (.inr rfl), exec_rbFlush_x3⟩
  · rw [exec_rbFlush_f1 h, if_pos hc]
  · rw [exec_rbFlush_f1 h, if_neg hc]

/-- Settles O22: the atomic read gives `count`, which as a number and back is itself. -/
theorem countReadsAnswerTheOccupancy : Obligations.CountReadsAnswerTheOccupancy := by
  refine fun r s => ⟨fun ⟨hop, hph⟩ => ?_, fun ⟨hop, hph⟩ => ?_⟩
  · refine (runCommand_running hop (by rw [hph]; rfl)).trans ?_
    rw [microRbCount, atomicCount_eq, BitVec.ofNat_toNat, BitVec.setWidth_eq]; rfl
  · refine (runCommand_running hop (by rw [hph]; rfl)).trans ?_
    rw [microStAvail, atomicCount_eq, BitVec.ofNat_toNat, BitVec.setWidth_eq]; rfl

/-- Settles O23: the atomic read gives `count`, and each test is its comparison. -/
theorem emptyAndFullAnswerFromCount : Obligations.EmptyAndFullAnswerFromCount := by
  refine fun r s => ⟨fun ⟨hop, hph⟩ => ?_, fun ⟨hop, hph⟩ => ?_⟩
  · refine (runCommand_running hop (by rw [hph]; rfl)).trans ?_
    simp only [microRbIsempty, atomicCount_eq, boolValue, isEmptyCount_iff]
  · refine (runCommand_running hop (by rw [hph]; rfl)).trans ?_
    simp only [microRbIsfull, atomicCount_eq, boolValue, isFullCount_iff]

end Sys2Proof.Machine
end

section
/-! The ring commands run by MAIN alone (R101 to R105, R109), and the queue they change (R71). -/

namespace Sys2Proof.Machine

section
variable {r : RingId} {b : Byte} {i : Instr} {s t : State}

/-! MAIN's sequencing is no part of a ring. -/

@[simp] theorem goto_ring (ph : Phase) (s : State) (r : RingId) : (goto ph s).ring r = s.ring r := by cases r <;> rfl
@[simp] theorem goto_cap (ph : Phase) (s : State) (r : RingId) : (goto ph s).cap r = s.cap r := rfl
@[simp] theorem goto_slot (ph : Phase) (s : State) (r : RingId) (k : Nat) : (goto ph s).slot r k = s.slot r k := by
  cases r <;> rfl
@[simp] theorem accept_ring (i : Instr) (ph : Phase) (s : State) (r : RingId) : (accept i ph s).ring r = s.ring r := by
  cases r <;> rfl
@[simp] theorem accept_cap (i : Instr) (ph : Phase) (s : State) (r : RingId) : (accept i ph s).cap r = s.cap r := rfl
@[simp] theorem accept_slot (i : Instr) (ph : Phase) (s : State) (r : RingId) (k : Nat) :
    (accept i ph s).slot r k = s.slot r k := by cases r <;> rfl
@[simp] theorem withMain_ring (m : MainSeq) (s : State) (r : RingId) : ({ s with main := m } : State).ring r = s.ring r := by
  cases r <;> rfl
@[simp] theorem withMain_cap (m : MainSeq) (s : State) (r : RingId) : ({ s with main := m } : State).cap r = s.cap r := rfl

/-! Runs of MAIN alone. -/

theorem mainRun_of_exec (n : Nat) (h : exec i s = .next t) : mainRun i (n + 1) s = mainRun i n t := by
  rw [mainRun, h]

/-- Acceptance is the first step of a run (R46, log 3). -/
theorem mainRun_of_accepted (n : Nat) (hi : i.isCommand = true) (hop : s.main.op = none) (hc : precheck i s = none) :
    mainRun i (n + 1) s = mainRun i n (accept i (firstPhase i) s) :=
  mainRun_of_exec n (exec_of_passed_checks hi hop hc)

/-! The queue after an insert and after a remove. -/

/-- Advancing a cursor shifts the slots counted from it by one (R63). -/
theorem wrap_add_mod {n c : Nat} (h : c < n) (k : Nat) : (wrap n c + k) % n = (c + (k + 1)) % n := by
  rw [wrap_eq_mod h, Nat.mod_add_mod, Nat.add_assoc, Nat.add_comm 1]

theorem ret_contents (w : Word) (s : State) (r : RingId) : (ret w s).contents r = s.contents r := by cases r <;> rfl

theorem setRing_contents (s : State) (r : RingId) (v : Ring) :
    (s.setRing r v).contents r = (List.range v.count.toNat).map fun k => Mem.read v.storage ((v.out + k) % s.cap r) := by
  simp [State.contents, State.slot]

/-- With room, an insert at the end of the queue adds its byte there: no occupied slot is the one `in` names (R71, R102). -/
theorem contents_push (hroom : (s.ring r).count.toNat < s.cap r)
    (hend : ((s.ring r).out + (s.ring r).count.toNat) % s.cap r = (s.ring r).inp) :
    (s.setRing r ((s.ring r).push (s.cap r) b)).contents r = s.contents r ++ [some b] := by
  have hcount : ((s.ring r).push (s.cap r) b).count.toNat = (s.ring r).count.toNat + 1 :=
    toNat_add_one_of_lt (s.cap_le r) hroom
  have hother (k : Nat) (hk : k < (s.ring r).count.toNat) : ((s.ring r).out + k) % s.cap r ≠ (s.ring r).inp := by
    intro he
    have hmod : (s.ring r).out + k ≡ (s.ring r).out + (s.ring r).count.toNat [MOD s.cap r] := he.trans hend.symm
    have hkc := Nat.ModEq.eq_of_lt_of_lt (Nat.ModEq.add_left_cancel' _ hmod) (hk.trans hroom) hroom
    omega
  rw [setRing_contents, hcount, List.range_succ, List.map_append]
  congr 1
  · refine List.map_congr_left fun k hk => ?_
    exact Mem.read_write_ne _ b (hother k (List.mem_range.mp hk))
  · simp [Ring.push, hend]

/-- A remove takes the head of the queue (R71, R104). -/
theorem contents_eq_cons_pop (hout : (s.ring r).out < s.cap r) (hpos : 0 < (s.ring r).count.toNat) :
    s.contents r = s.slot r (s.ring r).out :: (s.setRing r ((s.ring r).pop (s.cap r))).contents r := by
  obtain ⟨n, hn⟩ := Nat.exists_eq_add_one.mpr hpos
  have hcount : ((s.ring r).pop (s.cap r)).count.toNat = n := by
    rw [Ring.pop, toNat_sub_one_of_pos hpos, hn, Nat.add_sub_cancel]
  rw [setRing_contents, hcount, State.contents, hn, List.range_succ_eq_map, List.map_cons, List.map_map, Nat.add_zero,
    Nat.mod_eq_of_lt hout]
  congr 1
  exact List.map_congr_left fun k _ => by simp only [Ring.pop, wrap_add_mod hout]; rfl

/-! X1 and X2 of a remove or a flush on a written slot (R104, R109). -/

theorem mainRun_x1_x2 (n : Nat) (hi : i = .rbRemove r ∨ i = .rbFlush r) (h : s.runs i .x1) (hout : (s.ring r).out < s.cap r)
    (hb : s.slot r (s.ring r).out = some b) :
    mainRun i (n + 2) s = mainRun i n (goto .x3
      (State.setRing { s with main.byte := b } r { s.ring r with out := wrap (s.cap r) (s.ring r).out })) := by
  rw [mainRun_of_exec _ (exec_x1_written hi h hout hb), mainRun_of_exec _ (exec_x2 hi ⟨by exact h.1, rfl⟩)]
  cases r <;> rfl

/-- One round of the loop of a flush: the oldest byte leaves the ring and stays in MAIN's variable (R109). -/
theorem mainRun_flush_round (n : Nat) (h : s.runs (.rbFlush r) .f1) (hout : (s.ring r).out < s.cap r)
    (hpos : 0 < (s.ring r).count.toNat) (hb : s.slot r (s.ring r).out = some b) :
    mainRun (.rbFlush r) (n + 4) s =
      mainRun (.rbFlush r) n (goto .f1 (State.setRing { s with main.byte := b } r ((s.ring r).pop (s.cap r)))) := by
  have hne : (s.ring r).count ≠ 0 := by bv_omega
  rw [mainRun_of_exec _ (exec_rbFlush_f1 h), if_neg hne]
  rw [mainRun_x1_x2 _ (.inr rfl) ⟨by exact h.1, rfl⟩ (by simpa using hout) (by simpa using hb)]
  rw [mainRun_of_exec _ (exec_rbFlush_x3 ⟨by simpa using h.1, rfl⟩)]
  cases r <;> rfl

end

/-- Settles O16: the acceptance and the four lines of R101. -/
theorem rbInitEmptiesTheRing : Obligations.RbInitEmptiesTheRing := by
  intro r s hop hc
  rw [mainRun_of_accepted _ rfl hop hc]
  rw [mainRun_of_exec _ (exec_rbInit_initIn ⟨rfl, rfl⟩)]
  rw [mainRun_of_exec _ (exec_rbInit_initOut ⟨by simp, rfl⟩)]
  rw [mainRun_of_exec _ (exec_rbInit_initCount ⟨by simp, rfl⟩)]
  rw [mainRun_of_exec _ (exec_rbInit_initMark ⟨by simp, rfl⟩)]
  cases r <;> rfl

/-- Settles O18: the acceptance and I0 to I3, whose writes together are one `push`. -/
theorem rbInsertAppendsToTheQueue : Obligations.RbInsertAppendsToTheQueue := by
  intro r b s hop hc hok hroom hend
  have hpush : { s.ring r with
      storage := Mem.write (s.ring r).storage (s.ring r).inp b
      inp := ((s.ring r).inp + 1) % s.cap r
      count := (s.ring r).count + 1 } = (s.ring r).push (s.cap r) b := by
    rw [Ring.push, wrap_eq_mod hok.inpLt]
  refine ⟨_, ?_, ?_, rfl⟩
  · rw [mainRun_of_accepted _ rfl hop hc]
    rw [mainRun_of_exec _ (exec_rbInsert_i0 ⟨rfl, rfl⟩), if_neg (by simpa using hroom.ne)]
    rw [mainRun_of_exec _ (exec_rbInsert_i1 ⟨by simp, rfl⟩ (by simpa using hok.inpLt))]
    rw [mainRun_of_exec _ (exec_rbInsert_i2 ⟨by simp, rfl⟩)]
    rw [mainRun_of_exec _ (exec_rbInsert_i3 ⟨by simp, rfl⟩), hpush]
    cases r <;> rfl
  · rw [ret_contents, hpush, contents_push hroom hend]

/-- Settles O20: the acceptance and X0 to X3, whose writes together are one `pop`. -/
theorem rbRemoveTakesTheOldestByte : Obligations.RbRemoveTakesTheOldestByte := by
  intro r b rest s hop hc hout hcontents
  have hpos : 0 < (s.ring r).count.toNat := by
    have hlen : (s.ring r).count.toNat = rest.length + 1 := by
      simpa [State.contents] using congrArg List.length hcontents
    omega
  have hne : (s.ring r).count ≠ 0 := by bv_omega
  rw [contents_eq_cons_pop hout hpos, List.cons.injEq] at hcontents
  obtain ⟨hb, hrest⟩ := hcontents
  have hpop : { s.ring r with out := ((s.ring r).out + 1) % s.cap r, count := (s.ring r).count - 1 } =
      (s.ring r).pop (s.cap r) := by
    rw [Ring.pop, wrap_eq_mod hout]
  refine ⟨_, ?_, ?_, rfl⟩
  · rw [mainRun_of_accepted _ rfl hop hc]
    rw [mainRun_of_exec _ (exec_rbRemove_x0 ⟨rfl, rfl⟩), if_neg (by simpa using hne)]
    rw [mainRun_x1_x2 _ (.inl rfl) ⟨by simp, rfl⟩ (by simpa using hout) (by simpa using hb)]
    rw [mainRun_of_exec _ (exec_rbRemove_x3 ⟨by simp, rfl⟩), hpop]
    cases r <;> rfl
  · rw [ret_contents, hpop, hrest]

/-- Settles O21: the acceptance, then I0 or X0 finds the contract broken. -/
theorem ringContractBreachesFault : Obligations.RingContractBreachesFault := by
  intro r b s hmain
  have hop : s.main.op = none := congrArg MainSeq.op hmain
  refine ⟨fun hc hfull => ?_, fun hc hempty => ?_⟩
  · rw [mainRun_of_accepted _ rfl hop hc]
    rw [mainRun_of_exec _ (exec_rbInsert_i0 ⟨rfl, rfl⟩), if_pos (by simpa using hfull)]
    exact congrArg Host.Outcome.next (raise_of_idle hmain (by decide))
  · rw [mainRun_of_accepted _ rfl hop hc]
    rw [mainRun_of_exec _ (exec_rbRemove_x0 ⟨rfl, rfl⟩), if_pos (by simpa using hempty)]
    exact congrArg Host.Outcome.next (raise_of_idle hmain (by decide))

/-- A flush from F1 empties the ring, by induction on the bytes in it (R109). -/
theorem mainRun_flush_from_f1 {r : RingId} {n : Nat} {s : State} (h : s.runs (.rbFlush r) .f1)
    (hout : (s.ring r).out < s.cap r) (hn : (s.ring r).count.toNat = n)
    (hw : ∀ k, k < n → s.slot r (((s.ring r).out + k) % s.cap r) ≠ none) :
    mainRun (.rbFlush r) (1 + 4 * n) s = .next
      (ret 0 (s.setRing r { s.ring r with out := ((s.ring r).out + n) % s.cap r, count := 0 })) := by
  induction n generalizing s with
  | zero =>
    have hcount : (s.ring r).count = 0 := by bv_omega
    have hsame : { s.ring r with out := ((s.ring r).out + 0) % s.cap r, count := 0 } = s.ring r := by
      rw [Nat.add_zero, Nat.mod_eq_of_lt hout, ← hcount]
    rw [mainRun_of_exec _ (exec_rbFlush_f1 h), if_pos hcount, hsame, State.setRing_self]; rfl
  | succ n ih =>
    have hpos : 0 < (s.ring r).count.toNat := by omega
    have hhead := hw 0 (Nat.succ_pos n)
    rw [Nat.add_zero, Nat.mod_eq_of_lt hout] at hhead
    obtain ⟨b, hb⟩ := Option.ne_none_iff_exists'.mp hhead
    have hcount : ((s.ring r).pop (s.cap r)).count.toNat = n := by
      rw [Ring.pop, toNat_sub_one_of_pos hpos, hn, Nat.add_sub_cancel]
    rw [show 1 + 4 * (n + 1) = 1 + 4 * n + 4 by omega, mainRun_flush_round _ h hout hpos hb, ih ⟨by simpa using h.1, rfl⟩]
    · simp only [goto_ring, goto_cap, State.setRing_ring_self, State.setRing_cap, withMain_cap, Ring.pop, wrap_add_mod hout]
      cases r <;> rfl
    · simpa [Ring.pop] using wrap_lt hout
    · simpa using hcount
    · intro k hk
      simpa [State.slot, Ring.pop, wrap_add_mod hout] using hw (k + 1) (Nat.succ_lt_succ hk)

/-- Settles O25: the acceptance, then the loop of R109. -/
theorem rbFlushEmptiesTheRing : Obligations.RbFlushEmptiesTheRing := by
  intro r s hop hc hout hw
  rw [show 2 + 4 * (s.ring r).count.toNat = 1 + 4 * (s.ring r).count.toNat + 1 by omega, mainRun_of_accepted _ rfl hop hc]
  rw [mainRun_flush_from_f1 (n := (s.ring r).count.toNat) ⟨rfl, rfl⟩ (by simpa using hout) (by simp) (by simpa using hw)]
  cases r <;> rfl

end Sys2Proof.Machine
end

section
/-! The ownership check of R111: which commands it refuses, and that no other answer carries its code (R86, R181). -/

namespace Sys2Proof.Machine

section
variable {i : Instr} {s t : State}

theorem rspWord_eq_ownership {c : ResultCode} (h : rspWord c 0 = 0x60000) : c = .ownership := by
  revert h; cases c <;> decide

/-- The forms that check (4) of R86 concerns are legal words, and no `RB_INIT` waits for initialization (R85, R185). -/
theorem precheck_of_breach (hh : s.faults.halted = false)
    (h : (i = .rbInit .rx ∨ (∃ b, i = .rbInsert .rx b) ∧ s.rx.initialized = true) ∧ s.xport.rxIe = true ∨
      (i = .rbInit .tx ∨ (i = .rbRemove .tx ∨ i = .rbFlush .tx) ∧ s.tx.initialized = true) ∧ s.xport.txIe = true) :
    i.isCommand = true ∧ precheck i s = some .ownership := by
  rcases h with ⟨rfl | ⟨⟨b, rfl⟩, hinit⟩, hie⟩ | ⟨rfl | ⟨rfl | rfl, hinit⟩, hie⟩
  · exact ⟨rfl, precheck_of_ownership hh rfl rfl hie⟩
  · exact ⟨rfl, precheck_of_ownership hh rfl (if_pos hinit) hie⟩
  · exact ⟨rfl, precheck_of_ownership hh rfl rfl hie⟩
  · exact ⟨rfl, precheck_of_ownership hh rfl (if_pos hinit) hie⟩
  · exact ⟨rfl, precheck_of_ownership hh rfl (if_pos hinit) hie⟩

/-- Check (3) of R86 on a ring (R185), where it passes. -/
theorem initialized_of_check {mark : Bool} (h : (if mark = true then none else some ResultCode.uninit) = none) : mark = true := by
  by_contra hm
  rw [if_neg hm] at h
  cases h

/-- Which check of R86 failed, and of those before it what R111 and R122 rest on. -/
theorem precheck_inv {c : ResultCode} (h : precheck i s = some c) :
    c = .halted ∨ c = .illegal ∨ initFault i s = some c ∨
      (c = .ownership ∧ initFault i s = none ∧ breaksOwnership i s = true) ∨ (c = .config ∧ badConfig i s = true) := by
  unfold precheck at h
  split at h
  · cases h; exact .inl rfl
  · split at h
    · cases h; exact .inr (.inl rfl)
    · split at h
      · rename_i hinit; cases h; exact .inr (.inr (.inl hinit))
      · rename_i hinit
        split at h
        · rename_i hown; cases h; exact .inr (.inr (.inr (.inl ⟨rfl, hinit, hown⟩)))
        · split at h
          · rename_i hbad; cases h; exact .inr (.inr (.inr (.inr ⟨rfl, hbad⟩)))
          · cases h

theorem of_precheck_ownership (h : precheck i s = some .ownership) : initFault i s = none ∧ breaksOwnership i s = true := by
  rcases precheck_inv h with he | he | hinit | ⟨-, hinit, hown⟩ | ⟨he, -⟩
  · cases he
  · cases he
  · simpa using initFault_eq hinit
  · exact ⟨hinit, hown⟩
  · cases he

/-- An instruction that produces the response of `F_OWNERSHIP` failed check (4): the events respond to nothing (R151). -/
theorem precheck_of_ownership_response (hop : s.main.op = none) (h : exec i s = .next t)
    (hrsp : t.outputs.rsp = s.outputs.rsp ++ [0x60000]) : precheck i s = some .ownership := by
  have hquiet (hsame : t.outputs.rsp = s.outputs.rsp) : False := by simp [hsame] at hrsp
  cases hi : i.isCommand with
  | true =>
    rw [exec_idle hi hop] at h
    cases hc : precheck i s with
    | some c =>
      rw [hc] at h
      cases h
      have hword : rspWord c 0 = 0x60000 := by simpa using hrsp
      rw [rspWord_eq_ownership hword]
    | none =>
      rw [hc] at h
      cases h
      exact (hquiet rfl).elim
  | false =>
    cases i with
    | evRx => exact (hquiet (evRx_otherStep h).1.rsp).elim
    | evTx => exact (hquiet (evTx_otherStep h).1.rsp).elim
    | _ => cases hi

end

/-- Settles O26: a breach fails check (4) and no check before it; the response's code names the check that failed. -/
theorem ownershipBreachesAreRefused : Obligations.OwnershipBreachesAreRefused := by
  intro i s hmain hh breach
  have hop : s.main.op = none := congrArg MainSeq.op hmain
  refine ⟨fun hb => ?_, fun t h hrsp => ?_⟩
  · obtain ⟨hi, hc⟩ := precheck_of_breach hh hb
    rw [exec_of_failed_check hi hop hc, raise_of_idle hmain (by decide)]
    rfl
  · obtain ⟨hinit, hown⟩ := of_precheck_ownership (precheck_of_ownership_response hop h hrsp)
    rcases breaksOwnership_iff.mp hown with ⟨rfl | ⟨b, rfl⟩, hie⟩ | ⟨rfl | rfl | rfl, hie⟩
    · exact .inl ⟨.inl rfl, hie⟩
    · exact .inl ⟨.inr ⟨⟨b, rfl⟩, initialized_of_check hinit⟩, hie⟩
    · exact .inr ⟨.inl rfl, hie⟩
    · exact .inr ⟨.inr ⟨.inl rfl, initialized_of_check hinit⟩, hie⟩
    · exact .inr ⟨.inr ⟨.inr rfl, initialized_of_check hinit⟩, hie⟩

end Sys2Proof.Machine
end

section
/-! What the ring commands and the commands that store nothing leave as it was (R85, R101 to R109, R128, R129). -/

namespace Sys2Proof.Machine

/-- Between `s` and `t` only MAIN, the responses and the fault record differ. -/
structure StoresNothing (s t : State) : Prop where
  cfg : t.cfg = s.cfg := by rfl
  rx : t.rx = s.rx := by rfl
  tx : t.tx = s.tx := by rfl
  xport : t.xport = s.xport := by rfl
  line : t.line = s.line := by rfl
  ctx : t.ctx = s.ctx := by rfl
  client : t.client = s.client := by rfl
  inputs : t.inputs = s.inputs := by rfl
  wireOut : t.outputs.wireOut = s.outputs.wireOut := by rfl
  extCalls : t.outputs.extCalls = s.outputs.extCalls := by rfl
  faults : FaultsMayGrow s t := by exact ⟨rfl, .inl rfl⟩
  rsp : ResponsesMayGrow s t := by exact .inl rfl

section
variable {i : Instr} {r : RingId} {b : Byte} {s t : State}

/-! The ends of a step. -/

theorem StoresNothing.refl (s : State) : StoresNothing s s where


theorem storesNothing_goto (ph : Phase) (s : State) : StoresNothing s (goto ph s) where

theorem storesNothing_accept (i : Instr) (ph : Phase) (s : State) : StoresNothing s (accept i ph s) where

theorem storesNothing_ret (w : Word) (s : State) : StoresNothing s (ret w s) where
  rsp := .inr ⟨_, rfl⟩

/-- No fault but `F_CONFIG` halts (R183). -/
theorem storesNothing_raise {c : ResultCode} (hc : c ≠ .config) (s : State) : StoresNothing s (raise c s) where
  faults := ⟨if_neg hc, .inr ⟨rfl, fun h => if_pos h⟩⟩
  rsp := .inr ⟨_, rfl⟩

theorem StoresNothing.ring (h : StoresNothing s t) (r : RingId) : t.ring r = s.ring r := by
  cases r
  · exact h.rx
  · exact h.tx

theorem sameRing_of_eq (h : t.ring r = s.ring r) : SameRing r s t := ⟨h, fun k => by rw [State.slot, State.slot, h]⟩

/-- `F_CONFIG` is the answer of the last check alone (R122). -/
theorem precheck_ne_config {c : ResultCode} (hi : badConfig i s = false) (h : precheck i s = some c) : c ≠ .config := by
  rintro rfl
  rcases precheck_inv h with he | he | hinit | ⟨he, -⟩ | ⟨-, hbad⟩
  · cases he
  · cases he
  · simpa using initFault_eq hinit
  · cases he
  · simp [hi] at hbad

/-- A step of a command other than `ST_INIT` stores nothing, or is a micro-step of it (R46). -/
theorem storesNothing_or_micro {p : Phase} {m : State → Result} (hi : badConfig i s = false)
    (h : runCommand i p m s = .next t) :
    StoresNothing s t ∨ (Instr.hasPhase i s.main.phase = true ∧ m s = .next t) := by
  rcases runCommand_inv h with ⟨-, c, hc, rfl⟩ | ⟨-, -, rfl⟩ | ⟨-, hp, hmicro⟩ | ⟨_, -, -, rfl⟩
  · exact .inl (storesNothing_raise (precheck_ne_config hi hc) s)
  · exact .inl (storesNothing_accept i p s)
  · exact .inr ⟨hp, hmicro⟩
  · exact .inl (.refl _)

/-- A command whose one micro-step answers a value (R106 to R108, R128). -/
theorem storesNothing_of_ret {p : Phase} {m : State → Result} {w : Word} (hi : badConfig i s = false)
    (hm : m s = .next (ret w s)) (h : runCommand i p m s = .next t) : StoresNothing s t := by
  rcases storesNothing_or_micro hi h with hs | ⟨-, hmicro⟩
  · exact hs
  · rw [hm] at hmicro
    cases hmicro
    exact storesNothing_ret w s

theorem storesNothing_of_reading
    (hi : (∃ r, i = .rbCount r ∨ i = .rbIsempty r ∨ i = .rbIsfull r) ∨ i = .stAvail ∨ i = .stWaitTc ∨ ∃ x, i = .reservedD x)
    (h : exec i s = .next t) : StoresNothing s t := by
  rcases hi with ⟨r, rfl | rfl | rfl⟩ | rfl | rfl | ⟨x, rfl⟩
  · exact storesNothing_of_ret rfl (by rw [microRbCount, atomicCount_eq]) h
  · exact storesNothing_of_ret rfl (by rw [microRbIsempty, atomicCount_eq]) h
  · exact storesNothing_of_ret rfl (by rw [microRbIsfull, atomicCount_eq]) h
  · exact storesNothing_of_ret rfl (by rw [microStAvail, atomicCount_eq]) h
  · rcases storesNothing_or_micro rfl h with hs | ⟨-, hmicro⟩
    · exact hs
    · unfold microStWaitTc at hmicro
      split at hmicro
      · cases hmicro; exact .refl s
      · cases hmicro; exact storesNothing_ret 0 s
  · rcases storesNothing_or_micro (m := fun _ => .fault .strayPhase) rfl h with hs | ⟨hp, -⟩
    · exact hs
    · cases hp

/-! The writes of a ring command: to its ring, and to the draw counter. -/

/-- Ring `r` becomes `v` and the draw counter `d`. -/
def State.stored (s : State) (r : RingId) (v : Ring) (d : Nat) : State := { s.setRing r v with inputs.draws := d }

theorem State.stored_draws (s : State) (r : RingId) (v : Ring) : s.stored r v s.inputs.draws = s.setRing r v := by
  cases r <;> rfl

/-- What an insert leaves of its ring (R102). -/
structure InsertKeeps (v w : Ring) : Prop where
  out : w.out = v.out := by rfl
  initialized : w.initialized = v.initialized := by rfl
  slots : ∀ k, k ≠ v.inp → Mem.read w.storage k = Mem.read v.storage k := by exact fun _ _ => rfl

/-- What a remove or a flush leaves of its ring (R104, R109). -/
structure RemoveKeeps (v w : Ring) : Prop where
  inp : w.inp = v.inp := by rfl
  initialized : w.initialized = v.initialized := by rfl
  storage : w.storage = v.storage := by rfl

/-- A step that writes ring `r` as an insert may, and stores nothing else. -/
def InsertWrites (r : RingId) (s t : State) : Prop := ∃ v, StoresNothing (s.setRing r v) t ∧ InsertKeeps (s.ring r) v

/-- A step that writes ring `r` as a remove or a flush may, and the draw counter, and stores nothing else. -/
def RemoveWrites (r : RingId) (s t : State) : Prop := ∃ v d, StoresNothing (s.stored r v d) t ∧ RemoveKeeps (s.ring r) v

theorem StoresNothing.insertWrites (h : StoresNothing s t) : InsertWrites r s t :=
  ⟨s.ring r, by rwa [State.setRing_self], { }⟩

theorem removeWrites_of_setRing {v : Ring} (h : StoresNothing (s.setRing r v) t) (hv : RemoveKeeps (s.ring r) v) :
    RemoveWrites r s t :=
  ⟨v, s.inputs.draws, by rwa [State.stored_draws], hv⟩

theorem StoresNothing.removeWrites (h : StoresNothing s t) : RemoveWrites r s t :=
  removeWrites_of_setRing (by rwa [State.setRing_self]) { }

theorem exec_rbInit_writes (h : exec (.rbInit r) s = .next t) :
    ∃ v, StoresNothing (s.setRing r v) t ∧ v.storage = (s.ring r).storage := by
  rcases storesNothing_or_micro rfl h with hs | ⟨-, hmicro⟩
  · exact ⟨s.ring r, by rwa [State.setRing_self], rfl⟩
  · unfold microRbInit at hmicro
    split at hmicro
    · cases hmicro; exact ⟨_, storesNothing_goto _ _, rfl⟩
    · cases hmicro; exact ⟨_, storesNothing_goto _ _, rfl⟩
    · rw [initCountStep_eq] at hmicro; cases hmicro; exact ⟨_, storesNothing_goto _ _, rfl⟩
    · cases hmicro; exact ⟨_, storesNothing_ret _ _, rfl⟩
    · cases hmicro

theorem exec_rbInsert_writes (h : exec (.rbInsert r b) s = .next t) : InsertWrites r s t := by
  rcases storesNothing_or_micro rfl h with hs | ⟨-, hmicro⟩
  · exact hs.insertWrites
  · unfold microRbInsert at hmicro
    split at hmicro
    · simp only [atomicCount_eq] at hmicro
      cases hmicro
      split
      · exact (storesNothing_raise (by decide) s).insertWrites
      · exact (storesNothing_goto _ s).insertWrites
    · obtain ⟨-, rfl⟩ := stepI1_inv hmicro
      exact ⟨_, storesNothing_goto _ _, { slots := fun k hk => Mem.read_write_ne _ b hk }⟩
    · cases hmicro; exact ⟨_, storesNothing_goto _ _, { }⟩
    · rw [stepI3, atomically_countUp] at hmicro; cases hmicro; exact ⟨_, storesNothing_ret _ _, { }⟩
    · cases hmicro

/-- X1 draws a byte where the slot was never written (log 7), and stores nothing. -/
theorem stepX1_removeWrites (h : stepX1 r s = .next t) : RemoveWrites r s t := by
  obtain ⟨-, c, d, rfl, -⟩ := stepX1_inv h
  refine ⟨s.ring r, d, ?_, { }⟩
  rw [State.stored, State.setRing_self]
  exact { }

theorem stepX2_removeWrites (h : stepX2 r s = .next t) : RemoveWrites r s t := by
  cases h; exact removeWrites_of_setRing (storesNothing_goto _ _) { }

theorem stepX3_removeWrites {k : State → State} (hk : ∀ u, StoresNothing u (k u)) (h : stepX3 r k s = .next t) :
    RemoveWrites r s t := by
  rw [stepX3, atomically_countDown] at h
  cases h
  exact removeWrites_of_setRing (hk (countDown r s)) { }

theorem exec_rbRemove_writes (h : exec (.rbRemove r) s = .next t) : RemoveWrites r s t := by
  rcases storesNothing_or_micro rfl h with hs | ⟨-, hmicro⟩
  · exact hs.removeWrites
  · unfold microRbRemove at hmicro
    split at hmicro
    · simp only [atomicCount_eq] at hmicro
      cases hmicro
      split
      · exact (storesNothing_raise (by decide) s).removeWrites
      · exact (storesNothing_goto _ s).removeWrites
    · exact stepX1_removeWrites hmicro
    · exact stepX2_removeWrites hmicro
    · exact stepX3_removeWrites (storesNothing_ret _) hmicro
    · cases hmicro

theorem exec_rbFlush_writes (h : exec (.rbFlush r) s = .next t) : RemoveWrites r s t := by
  rcases storesNothing_or_micro rfl h with hs | ⟨-, hmicro⟩
  · exact hs.removeWrites
  · unfold microRbFlush at hmicro
    split at hmicro
    · simp only [atomicCount_eq] at hmicro
      cases hmicro
      split
      · exact (storesNothing_ret _ s).removeWrites
      · exact (storesNothing_goto _ s).removeWrites
    · exact stepX1_removeWrites hmicro
    · exact stepX2_removeWrites hmicro
    · exact stepX3_removeWrites (storesNothing_goto _) hmicro
    · cases hmicro

/-- The four commands as one: the ring and the draw counter after the step, each as its command allows. -/
theorem exec_ringCommand_writes (hi : i = .rbInit r ∨ (∃ b, i = .rbInsert r b) ∨ i = .rbRemove r ∨ i = .rbFlush r)
    (h : exec i s = .next t) :
    ∃ v d, StoresNothing (s.stored r v d) t ∧ (i = .rbInit r → v.storage = (s.ring r).storage) ∧
      (∀ b, i = .rbInsert r b → d = s.inputs.draws ∧ InsertKeeps (s.ring r) v) ∧
      (i = .rbRemove r ∨ i = .rbFlush r → RemoveKeeps (s.ring r) v) := by
  rcases hi with rfl | ⟨b, rfl⟩ | rfl | rfl
  · obtain ⟨v, hs, hv⟩ := exec_rbInit_writes h
    exact ⟨v, _, State.stored_draws s r v ▸ hs, fun _ => hv, by simp, by simp⟩
  · obtain ⟨v, hs, hv⟩ := exec_rbInsert_writes h
    exact ⟨v, _, State.stored_draws s r v ▸ hs, by simp, fun _ _ => ⟨rfl, hv⟩, by simp⟩
  · obtain ⟨v, d, hs, hv⟩ := exec_rbRemove_writes h
    exact ⟨v, d, hs, by simp, by simp, fun _ => hv⟩
  · obtain ⟨v, d, hs, hv⟩ := exec_rbFlush_writes h
    exact ⟨v, d, hs, by simp, by simp, fun _ => hv⟩

theorem State.stored_ring_self (s : State) (r : RingId) (v : Ring) (d : Nat) : (s.stored r v d).ring r = v := by cases r <;> rfl

theorem State.stored_ring_ne {q : RingId} (s : State) (v : Ring) (d : Nat) (h : q ≠ r) : (s.stored r v d).ring q = s.ring q := by
  rw [← State.setRing_ring_ne s v h]; cases q <;> rfl

end

/-- Settles O56: these commands store nothing. -/
theorem readingCommandsFrame : Obligations.ReadingCommandsFrame := by
  intro i s t hi h
  have hs := storesNothing_of_reading hi h
  exact ⟨hs.cfg, hs.xport, hs.line, hs.ctx, hs.client, sameRing_of_eq hs.rx, sameRing_of_eq hs.tx,
    ⟨hs.inputs, hs.wireOut, hs.extCalls⟩, hs.faults, hs.rsp⟩

/-- Settles O57: the step stores in its ring and the draw counter alone, and there as its command allows. -/
theorem writingRingCommandsFrame : Obligations.WritingRingCommandsFrame := by
  intro r i s t hi h
  obtain ⟨v, d, hs, hinit, hinsert, hremove⟩ := exec_ringCommand_writes hi h
  have hring : t.ring r = v := (hs.ring r).trans (State.stored_ring_self s r v d)
  have hslot (k : Nat) : t.slot r k = Mem.read v.storage k := by rw [State.slot, hring]
  have hdraws : t.inputs = { s.inputs with draws := d } := by simpa [State.stored] using hs.inputs
  have houtputs : (s.stored r v d).outputs = s.outputs := State.setRing_outputs s r v
  have hfaults : (s.stored r v d).faults = s.faults := State.setRing_faults s r v
  refine ⟨hs.cfg.trans (State.setRing_cfg s r v), hs.xport.trans (State.setRing_xport s r v),
    hs.line.trans (State.setRing_line s r v), hs.ctx.trans (State.setRing_ctx s r v),
    hs.client.trans (State.setRing_client s r v), ?_, ?_, ?_, ?_, ?_, ?_, ?_, fun q hq => ?_, fun he k => ?_, fun b he => ?_,
    fun he => ?_⟩
  · rw [hdraws]
  · rw [hdraws]
  · rw [hdraws]
  · rw [hs.wireOut, houtputs]
  · rw [hs.extCalls, houtputs]
  · simpa [FaultsMayGrow, hfaults] using hs.faults
  · simpa [ResponsesMayGrow, houtputs] using hs.rsp
  · exact sameRing_of_eq ((hs.ring q).trans (State.stored_ring_ne s v d hq))
  · rw [hslot, hinit he]; rfl
  · obtain ⟨rfl, hv⟩ := hinsert b he
    exact ⟨by rw [hring, hv.out], by rw [hring, hv.initialized], by rw [hdraws], fun k hk => (hslot k).trans (hv.slots k hk)⟩
  · have hv := hremove he
    exact ⟨by rw [hring, hv.inp], by rw [hring, hv.initialized], fun k => by rw [hslot, hv.storage]; rfl⟩

end Sys2Proof.Machine
end

section
/-! The micro-steps of the transport's commands (R121 to R131), and the faults of `ST_INIT` (R122, R123). -/

namespace Sys2Proof.Machine

section
variable {imm sel b : Byte} {r : RingId} {ph : Phase} {s : State}

/-! A command in progress takes the micro-step that the phase names. -/

theorem exec_stInit_of_runs (h : s.runs (.stInit sel) ph) (hp : Instr.hasPhase (.stInit sel) ph = true) :
    exec (.stInit sel) s = microStInit sel s :=
  runCommand_running h.1 (h.2 ▸ hp)

theorem exec_stWriteByte_of_runs (h : s.runs (.stWriteByte b) ph) (hp : Instr.hasPhase (.stWriteByte b) ph = true) :
    exec (.stWriteByte b) s = microStWriteByte b s :=
  runCommand_running h.1 (h.2 ▸ hp)

theorem exec_stReadByte_of_runs (h : s.runs .stReadByte ph) (hp : Instr.hasPhase .stReadByte ph = true) :
    exec .stReadByte s = microStReadByte s :=
  runCommand_running h.1 (h.2 ▸ hp)

/-! The assignments of R121, each line of R101 among them. -/

theorem exec_stInit_cfgBaud (h : s.runs (.stInit sel) .cfgBaud) :
    exec (.stInit sel) s = .next (goto .cfgLineOn { s with xport.baud := sel }) := by
  rw [exec_stInit_of_runs h rfl]; simp only [microStInit, h.2]

theorem exec_stInit_cfgLineOn (h : s.runs (.stInit sel) .cfgLineOn) :
    exec (.stInit sel) s = .next (goto .cfgRxPending { s with line.on := true }) := by
  rw [exec_stInit_of_runs h rfl]; simp only [microStInit, h.2]

theorem exec_stInit_cfgRxPending (h : s.runs (.stInit sel) .cfgRxPending) :
    exec (.stInit sel) s = .next (goto .cfgTxReady { s with line.rxPending := false }) := by
  rw [exec_stInit_of_runs h rfl]; simp only [microStInit, h.2]

theorem exec_stInit_cfgTxReady (h : s.runs (.stInit sel) .cfgTxReady) :
    exec (.stInit sel) s = .next (goto (.initIn .rx) { s with line.txReady := true }) := by
  rw [exec_stInit_of_runs h rfl]; simp only [microStInit, h.2]

theorem exec_stInit_initIn (h : s.runs (.stInit sel) (.initIn r)) :
    exec (.stInit sel) s = .next (goto (.initOut r) (s.setRing r { s.ring r with inp := 0 })) := by
  rw [exec_stInit_of_runs h (by cases r <;> rfl)]; simp only [microStInit, h.2, initInStep]

theorem exec_stInit_initOut (h : s.runs (.stInit sel) (.initOut r)) :
    exec (.stInit sel) s = .next (goto (.initCount r) (s.setRing r { s.ring r with out := 0 })) := by
  rw [exec_stInit_of_runs h (by cases r <;> rfl)]; simp only [microStInit, h.2, initOutStep]

theorem exec_stInit_initCount (h : s.runs (.stInit sel) (.initCount r)) :
    exec (.stInit sel) s = .next (goto (.initMark r) (s.setRing r { s.ring r with count := 0 })) := by
  rw [exec_stInit_of_runs h (by cases r <;> rfl)]; simp only [microStInit, h.2, initCountStep_eq]

/-- What `ST_INIT` goes on to after the body of `RB_INIT r`: the other ring, then the statuses (R121). -/
def afterInit : RingId → Phase
  | .rx => .initIn .tx
  | .tx => .cfgRxStatus

theorem exec_stInit_initMark (h : s.runs (.stInit sel) (.initMark r)) :
    exec (.stInit sel) s = .next (goto (afterInit r) (s.setRing r { s.ring r with initialized := true })) := by
  rw [exec_stInit_of_runs h (by cases r <;> rfl)]
  cases r <;> simp only [microStInit, h.2, initMarkStep, afterInit]

theorem exec_stInit_cfgRxStatus (h : s.runs (.stInit sel) .cfgRxStatus) :
    exec (.stInit sel) s =
      .next (goto .cfgTxStatus { s with xport.rxStatus := .idleEmpty, xport.rxStatusSet := true }) := by
  rw [exec_stInit_of_runs h rfl]; simp only [microStInit, h.2, State.setRxStatus]

theorem exec_stInit_cfgTxStatus (h : s.runs (.stInit sel) .cfgTxStatus) :
    exec (.stInit sel) s =
      .next (goto .cfgTxIe { s with xport.txStatus := .idleEmpty, xport.txStatusSet := true }) := by
  rw [exec_stInit_of_runs h rfl]; simp only [microStInit, h.2, State.setTxStatus]

theorem exec_stInit_cfgTxIe (h : s.runs (.stInit sel) .cfgTxIe) :
    exec (.stInit sel) s = .next (goto .cfgRxIe { s with xport.txIe := false }) := by
  rw [exec_stInit_of_runs h rfl]; simp only [microStInit, h.2]

theorem exec_stInit_cfgRxIe (h : s.runs (.stInit sel) .cfgRxIe) :
    exec (.stInit sel) s = .next (goto .cfgMark { s with xport.rxIe := true }) := by
  rw [exec_stInit_of_runs h rfl]; simp only [microStInit, h.2]

theorem exec_stInit_cfgMark (h : s.runs (.stInit sel) .cfgMark) :
    exec (.stInit sel) s = .next (ret 0 { s with xport.initialized := true }) := by
  rw [exec_stInit_of_runs h rfl]; simp only [microStInit, h.2]

/-! W1, I1 to I3 and W2 (R124). -/

theorem exec_stWriteByte_w1 (h : s.runs (.stWriteByte b) .w1) :
    exec (.stWriteByte b) s = .next (if s.tx.count.toNat = s.cap .tx then s else goto .i1 s) := by
  rw [exec_stWriteByte_of_runs h rfl, apply_ite Host.Outcome.next]
  simp only [microStWriteByte, h.2, stepW1, atomicCount_eq, State.ring_tx]

theorem exec_stWriteByte_i1 (h : s.runs (.stWriteByte b) .i1) (hin : s.tx.inp < s.cap .tx) :
    exec (.stWriteByte b) s = .next (goto .i2 { s with tx.storage := Mem.write s.tx.storage s.tx.inp b }) := by
  rw [exec_stWriteByte_of_runs h rfl]; simp only [microStWriteByte, h.2]; exact stepI1_ok hin

theorem exec_stWriteByte_i2 (h : s.runs (.stWriteByte b) .i2) :
    exec (.stWriteByte b) s = .next (goto .i3 { s with tx.inp := wrap (s.cap .tx) s.tx.inp }) := by
  rw [exec_stWriteByte_of_runs h rfl]; simp only [microStWriteByte, h.2]; rfl

theorem exec_stWriteByte_i3 (h : s.runs (.stWriteByte b) .i3) :
    exec (.stWriteByte b) s = .next (goto .w2 { s with tx.count := s.tx.count + 1 }) := by
  rw [exec_stWriteByte_of_runs h rfl]; simp only [microStWriteByte, h.2, stepI3, atomically_countUp]; rfl

theorem exec_stWriteByte_w2 (h : s.runs (.stWriteByte b) .w2) :
    exec (.stWriteByte b) s = .next (ret 0 { s with xport.txIe := true }) := by
  rw [exec_stWriteByte_of_runs h rfl]; simp only [microStWriteByte, h.2]

/-! G1, G2 and X1 to X3 (R127). -/

theorem exec_stReadByte_g1 (h : s.runs .stReadByte .g1) :
    exec .stReadByte s = .next (goto (if s.rx.count = 0 then .g2 else .x1) s) := by
  rw [exec_stReadByte_of_runs h rfl]
  simp only [microStReadByte, h.2, atomicCount_eq, isEmptyCount_iff, State.ring_rx]

theorem exec_stReadByte_g2 (h : s.runs .stReadByte .g2) :
    exec .stReadByte s = .next (ret 0 { s with xport.rxStatus := .idleEmpty, xport.rxStatusSet := true }) := by
  rw [exec_stReadByte_of_runs h rfl]; simp only [microStReadByte, h.2]; rfl

theorem exec_stReadByte_x1 (h : s.runs .stReadByte .x1) : exec .stReadByte s = stepX1 .rx s := by
  rw [exec_stReadByte_of_runs h rfl]; simp only [microStReadByte, h.2]

theorem exec_stReadByte_x1_written (h : s.runs .stReadByte .x1) (hout : s.rx.out < s.cap .rx)
    (hb : s.slot .rx s.rx.out = some b) : exec .stReadByte s = .next { s with main.byte := b, main.phase := .x2 } :=
  (exec_stReadByte_x1 h).trans (stepX1_ok hout hb)

theorem exec_stReadByte_x1_unwritten (h : s.runs .stReadByte .x1) (hout : s.rx.out < s.cap .rx)
    (hb : s.slot .rx s.rx.out = none) :
    ∃ c, exec .stReadByte s = .next { s with main.byte := c, main.phase := .x2, inputs.draws := s.inputs.draws + 1 } :=
  ⟨_, (exec_stReadByte_x1 h).trans (stepX1_unwritten hout hb)⟩

theorem exec_stReadByte_x2 (h : s.runs .stReadByte .x2) :
    exec .stReadByte s = .next (goto .x3 { s with rx.out := wrap (s.cap .rx) s.rx.out }) := by
  rw [exec_stReadByte_of_runs h rfl]; simp only [microStReadByte, h.2]; rfl

theorem exec_stReadByte_x3 (h : s.runs .stReadByte .x3) :
    exec .stReadByte s = .next (ret (s.main.byte.zeroExtend 16) { s with rx.count := s.rx.count - 1 }) := by
  rw [exec_stReadByte_of_runs h rfl]; simp only [microStReadByte, h.2, stepX3, atomically_countDown]; rfl

end

/-- Settles O27: one rule for each assignment of R121; after the mark of a ring the phase depends on which ring it is. -/
theorem stInitMicroSteps : Obligations.StInitMicroSteps := fun _ _ =>
  ⟨exec_stInit_cfgBaud, exec_stInit_cfgLineOn, exec_stInit_cfgRxPending, exec_stInit_cfgTxReady,
    fun _ => exec_stInit_initIn, fun _ => exec_stInit_initOut, fun _ => exec_stInit_initCount,
    fun r h => (exec_stInit_initMark h).trans (by cases r <;> rfl),
    exec_stInit_cfgRxStatus, exec_stInit_cfgTxStatus, exec_stInit_cfgTxIe, exec_stInit_cfgRxIe, exec_stInit_cfgMark⟩

/-- Settles O33: W1 goes either way by the test for a full ring. -/
theorem stWriteByteMicroSteps : Obligations.StWriteByteMicroSteps := by
  refine fun b s => ⟨fun h hfull => ?_, fun h hroom => ?_, exec_stWriteByte_i1, exec_stWriteByte_i2, exec_stWriteByte_i3,
    exec_stWriteByte_w2⟩
  · rw [exec_stWriteByte_w1 h, if_pos hfull]
  · rw [exec_stWriteByte_w1 h, if_neg hroom]

/-- Settles O36: G1 goes either way by the test for an empty ring, X1 by whether the slot was ever written. -/
theorem stReadByteMicroSteps : Obligations.StReadByteMicroSteps := by
  refine fun b s => ⟨fun h hempty => ?_, fun h hne => ?_, exec_stReadByte_g2, exec_stReadByte_x1_written,
    exec_stReadByte_x1_unwritten, exec_stReadByte_x2, exec_stReadByte_x3⟩
  · rw [exec_stReadByte_g1 h, if_pos hempty]
  · rw [exec_stReadByte_g1 h, if_neg hne]

/-- Settles O32: the one micro-step of `SYS_GIE` is the assignment. -/
theorem sysGieWritesGie : Obligations.SysGieWritesGie := fun _ _ ⟨hop, hph⟩ =>
  runCommand_running hop (by rw [hph]; rfl)

/-- Settles O38: T1 goes either way by the value it reads. -/
theorem stWaitTcWaitsWhileTransmitting : Obligations.StWaitTcWaitsWhileTransmitting := by
  intro s ⟨hop, hph⟩
  have hstep : exec .stWaitTc s = microStWaitTc s := runCommand_running hop (by rw [hph]; rfl)
  refine ⟨fun htx => ?_, fun htx => ?_⟩
  · rw [hstep, microStWaitTc, if_pos htx]
  · rw [hstep, microStWaitTc, if_neg htx]

/-- Settles O29: `F_CONFIG` comes from the last check and halts; `F_REINIT` comes from a check before it and does not. -/
theorem stInitFaults : Obligations.StInitFaults := by
  intro sel s hmain hh
  have hop : s.main.op = none := congrArg MainSeq.op hmain
  refine ⟨fun hinit hsel => ?_, fun hinit => ?_⟩
  · have hc : precheck (.stInit sel) s = some .config :=
      precheck_of_config hh rfl (by simp [initFault, hinit]) rfl (badConfig_iff.mpr ⟨sel, rfl, hsel⟩)
    rw [exec_of_failed_check rfl hop hc, raise_eq, ← hmain, FaultRecord.record, if_pos rfl]
    rfl
  · have hc : precheck (.stInit sel) s = some .reinit :=
      precheck_of_initFault hh rfl (initFault_reinit_iff.mpr ⟨⟨sel, rfl⟩, hinit⟩)
    rw [exec_of_failed_check rfl hop hc, raise_of_idle hmain (by decide), hh]
    rfl

end Sys2Proof.Machine
end

section
/-! The transport's commands run by MAIN alone (R121, R124, R127), and the queues they change (R71). -/

namespace Sys2Proof.Machine

section
variable {sel b : Byte} {r : RingId} {s : State}

/-- The first four assignments of R121. -/
theorem mainRun_stInit_line (n : Nat) (h : s.runs (.stInit sel) .cfgBaud) :
    mainRun (.stInit sel) (n + 4) s = mainRun (.stInit sel) n (goto (.initIn .rx)
      { s with xport.baud := sel, line := { s.line with on := true, rxPending := false, txReady := true } }) := by
  rw [mainRun_of_exec _ (exec_stInit_cfgBaud h)]
  rw [mainRun_of_exec _ (exec_stInit_cfgLineOn ⟨by exact h.1, rfl⟩)]
  rw [mainRun_of_exec _ (exec_stInit_cfgRxPending ⟨by exact h.1, rfl⟩)]
  rw [mainRun_of_exec _ (exec_stInit_cfgTxReady ⟨by exact h.1, rfl⟩)]
  rfl

/-- The body of `RB_INIT r` in its place inside `ST_INIT` (R101, R121). -/
theorem mainRun_stInit_ring (n : Nat) (h : s.runs (.stInit sel) (.initIn r)) :
    mainRun (.stInit sel) (n + 4) s = mainRun (.stInit sel) n (goto (afterInit r)
      (s.setRing r { storage := (s.ring r).storage, inp := 0, out := 0, count := 0, initialized := true })) := by
  rw [mainRun_of_exec _ (exec_stInit_initIn h)]
  rw [mainRun_of_exec _ (exec_stInit_initOut ⟨by simpa using h.1, rfl⟩)]
  rw [mainRun_of_exec _ (exec_stInit_initCount ⟨by simpa using h.1, rfl⟩)]
  rw [mainRun_of_exec _ (exec_stInit_initMark ⟨by simpa using h.1, rfl⟩)]
  cases r <;> rfl

/-- The last five assignments of R121, and the return. -/
theorem mainRun_stInit_registers (h : s.runs (.stInit sel) .cfgRxStatus) :
    mainRun (.stInit sel) 5 s = .next (ret 0
      { s with xport := { rxStatus := .idleEmpty, txStatus := .idleEmpty, rxStatusSet := true, txStatusSet := true,
                          initialized := true, baud := s.xport.baud, rxIe := true, txIe := false } }) := by
  rw [mainRun_of_exec _ (exec_stInit_cfgRxStatus h)]
  rw [mainRun_of_exec _ (exec_stInit_cfgTxStatus ⟨by exact h.1, rfl⟩)]
  rw [mainRun_of_exec _ (exec_stInit_cfgTxIe ⟨by exact h.1, rfl⟩)]
  rw [mainRun_of_exec _ (exec_stInit_cfgRxIe ⟨by exact h.1, rfl⟩)]
  rw [mainRun_of_exec _ (exec_stInit_cfgMark ⟨by exact h.1, rfl⟩)]
  rfl

/-- X1 and X2 of a read on a written slot (R127). -/
theorem mainRun_stReadByte_x1_x2 (n : Nat) (h : s.runs .stReadByte .x1) (hout : s.rx.out < s.cap .rx)
    (hb : s.slot .rx s.rx.out = some b) :
    mainRun .stReadByte (n + 2) s =
      mainRun .stReadByte n (goto .x3 { s with main.byte := b, rx.out := wrap (s.cap .rx) s.rx.out }) := by
  rw [mainRun_of_exec _ (exec_stReadByte_x1_written h hout hb), mainRun_of_exec _ (exec_stReadByte_x2 ⟨by exact h.1, rfl⟩)]
  rfl

end

/-- Settles O28: the acceptance, the line, the body of `RB_INIT` on each ring, and the registers. -/
theorem stInitConfiguresTheTransport : Obligations.StInitConfiguresTheTransport := by
  intro sel s hmain hc
  rw [mainRun_of_accepted _ rfl (congrArg MainSeq.op hmain) hc]
  rw [mainRun_stInit_line _ ⟨rfl, rfl⟩]
  rw [mainRun_stInit_ring _ ⟨rfl, rfl⟩]
  rw [mainRun_stInit_ring _ ⟨rfl, rfl⟩]
  rw [mainRun_stInit_registers ⟨rfl, rfl⟩, hmain]
  rfl

/-- Settles O34: the acceptance, W1 that finds room, I1 to I3, whose writes together are one `push`, and the arm W2. -/
theorem stWriteByteQueuesAndArms : Obligations.StWriteByteQueuesAndArms := by
  intro b s hop hc hok hroom hend
  have hpush := contents_push (r := .tx) (b := b) hroom hend
  rw [State.ring_tx, Ring.push, wrap_eq_mod hok.inpLt] at hpush
  refine ⟨_, ?_, ?_, rfl⟩
  · rw [mainRun_of_accepted _ rfl hop hc]
    rw [mainRun_of_exec _ (exec_stWriteByte_w1 ⟨rfl, rfl⟩), accept_tx, accept_cap, if_neg hroom.ne]
    rw [mainRun_of_exec _ (exec_stWriteByte_i1 ⟨rfl, rfl⟩ (by exact hok.inpLt))]
    rw [mainRun_of_exec _ (exec_stWriteByte_i2 ⟨rfl, rfl⟩)]
    rw [mainRun_of_exec _ (exec_stWriteByte_i3 ⟨rfl, rfl⟩)]
    rw [mainRun_of_exec _ (exec_stWriteByte_w2 ⟨rfl, rfl⟩), ← wrap_eq_mod hok.inpLt]
    rfl
  · exact hpush

/-- Settles O37: the acceptance, then G1: with a byte there, X1 to X3, whose writes together are one `pop`; on an empty ring, G2. -/
theorem stReadByteTakesTheOldestByteOrTheSentinel : Obligations.StReadByteTakesTheOldestByteOrTheSentinel := by
  intro b rest s hop hc hout
  have hlen : (s.contents .rx).length = s.rx.count.toNat := by simp [State.contents]
  refine ⟨fun hcontents => ?_, fun hcontents => ?_⟩
  · have hpos : 0 < s.rx.count.toNat := by rw [← hlen, hcontents]; exact Nat.succ_pos _
    have hne : s.rx.count ≠ 0 := by bv_omega
    rw [contents_eq_cons_pop (r := .rx) hout hpos, List.cons.injEq, State.ring_rx, Ring.pop, wrap_eq_mod hout] at hcontents
    obtain ⟨hb, hrest⟩ := hcontents
    refine ⟨_, ?_, ?_, rfl⟩
    · rw [mainRun_of_accepted _ rfl hop hc]
      rw [mainRun_of_exec _ (exec_stReadByte_g1 ⟨rfl, rfl⟩), accept_rx, if_neg hne]
      rw [mainRun_stReadByte_x1_x2 _ ⟨rfl, rfl⟩ (by exact hout) (by exact hb)]
      rw [mainRun_of_exec _ (exec_stReadByte_x3 ⟨rfl, rfl⟩), ← wrap_eq_mod hout]
      rfl
    · exact hrest
  · have hzero : s.rx.count.toNat = 0 := by rw [← hlen, hcontents, List.length_nil]
    have hempty : s.rx.count = 0 := by bv_omega
    rw [mainRun_of_accepted _ rfl hop hc]
    rw [mainRun_of_exec _ (exec_stReadByte_g1 ⟨rfl, rfl⟩), accept_rx, if_pos hempty]
    rw [mainRun_of_exec _ (exec_stReadByte_g2 ⟨rfl, rfl⟩)]
    rfl

end Sys2Proof.Machine
end

section
/-! What the transport's commands leave as it was (R121, R124, R127, R130). -/

namespace Sys2Proof.Machine

/-- What no command of the transport writes is the same in `u` as in `s`. -/
structure TransportWrites (s u : State) : Prop where
  cfg : u.cfg = s.cfg := by rfl
  client : u.client = s.client := by rfl
  cmds : u.inputs.cmds = s.inputs.cmds := by rfl
  wireIn : u.inputs.wireIn = s.inputs.wireIn := by rfl
  schedule : u.inputs.schedule = s.inputs.schedule := by rfl
  outputs : u.outputs = s.outputs := by rfl
  inIrq : u.ctx.inIrq = s.ctx.inIrq := by rfl
  critSaved : u.ctx.critSaved = s.ctx.critSaved := by rfl

/-- What `ST_INIT` may write: registers of the transport and of the line device, cursors, counts and marks (R121) and, refused, the
fault record (R122, R123). -/
structure InitWrites (s u : State) : Prop extends TransportWrites s u where
  gie : u.ctx.gie = s.ctx.gie := by rfl
  rxData : u.line.rxData = s.line.rxData := by rfl
  txData : u.line.txData = s.line.txData := by rfl
  slots : ∀ r k, u.slot r k = s.slot r k := by exact fun r _ => by cases r <;> rfl

section
variable {i : Instr} {imm sel b : Byte} {s t : State}

theorem exec_sysGie_writes (h : exec (.sysGie imm) s = .next t) : ∃ g, StoresNothing { s with ctx.gie := g } t := by
  rcases storesNothing_or_micro rfl h with hs | ⟨-, hmicro⟩
  · exact ⟨s.ctx.gie, hs⟩
  · cases hmicro; exact ⟨_, storesNothing_ret _ _⟩

theorem microStInit_writes (h : microStInit sel s = .next t) : ∃ u, InitWrites s u ∧ StoresNothing u t := by
  cases hph : s.main.phase with
  | cfgBaud | cfgLineOn | cfgRxPending | cfgTxReady | cfgRxStatus | cfgTxStatus | cfgTxIe | cfgRxIe =>
    simp only [microStInit, hph] at h
    cases h
    exact ⟨_, { }, storesNothing_goto _ _⟩
  | initIn r | initOut r | initCount r | initMark r =>
    simp only [microStInit, hph] at h
    cases r <;> cases h <;> exact ⟨_, { }, storesNothing_goto _ _⟩
  | cfgMark =>
    simp only [microStInit, hph] at h
    cases h
    exact ⟨_, { }, storesNothing_ret _ _⟩
  | _ => simp only [microStInit, hph] at h; cases h

theorem exec_stInit_writes (h : exec (.stInit sel) s = .next t) : ∃ u, InitWrites s u ∧ StoresNothing u t := by
  rcases runCommand_inv h with ⟨-, c, -, rfl⟩ | ⟨-, -, rfl⟩ | ⟨-, -, hmicro⟩ | ⟨_, -, -, rfl⟩
  · exact ⟨{ s with faults := s.faults.record c }, { }, { rsp := .inr ⟨_, rfl⟩ }⟩
  · exact ⟨s, { }, storesNothing_accept _ _ s⟩
  · exact microStInit_writes hmicro
  · exact ⟨_, { }, .refl _⟩

theorem exec_stWriteByte_writes (h : exec (.stWriteByte b) s = .next t) :
    ∃ v e, StoresNothing { s with tx := v, xport.txIe := e } t ∧ InsertKeeps s.tx v := by
  rcases storesNothing_or_micro rfl h with hs | ⟨-, hmicro⟩
  · exact ⟨s.tx, s.xport.txIe, hs, { }⟩
  · unfold microStWriteByte at hmicro
    split at hmicro
    · simp only [stepW1, atomicCount_eq] at hmicro
      split at hmicro
      · cases hmicro; exact ⟨s.tx, s.xport.txIe, .refl s, { }⟩
      · cases hmicro; exact ⟨s.tx, s.xport.txIe, storesNothing_goto _ s, { }⟩
    · obtain ⟨-, rfl⟩ := stepI1_inv hmicro
      exact ⟨_, s.xport.txIe, storesNothing_goto _ _, { slots := fun k hk => Mem.read_write_ne _ b hk }⟩
    · cases hmicro; exact ⟨_, s.xport.txIe, storesNothing_goto _ _, { }⟩
    · rw [stepI3, atomically_countUp] at hmicro
      cases hmicro
      exact ⟨_, s.xport.txIe, storesNothing_goto _ _, { }⟩
    · cases hmicro; exact ⟨s.tx, _, storesNothing_ret _ _, { }⟩
    · cases hmicro

theorem exec_stReadByte_writes (h : exec .stReadByte s = .next t) :
    ∃ x y, RemoveWrites .rx { s with xport.rxStatus := x, xport.rxStatusSet := y } t := by
  have hkeep (hs : RemoveWrites .rx s t) : ∃ x y, RemoveWrites .rx { s with xport.rxStatus := x, xport.rxStatusSet := y } t :=
    ⟨s.xport.rxStatus, s.xport.rxStatusSet, hs⟩
  rcases storesNothing_or_micro rfl h with hs | ⟨-, hmicro⟩
  · exact hkeep hs.removeWrites
  · unfold microStReadByte at hmicro
    split at hmicro
    · simp only [atomicCount_eq] at hmicro
      cases hmicro
      exact hkeep (storesNothing_goto _ s).removeWrites
    · cases hmicro; exact ⟨_, _, (storesNothing_ret _ _).removeWrites⟩
    · exact hkeep (stepX1_removeWrites hmicro)
    · exact hkeep (stepX2_removeWrites hmicro)
    · exact hkeep (stepX3_removeWrites (storesNothing_ret _) hmicro)
    · cases hmicro

/-- The four commands as one. -/
theorem exec_transportCommand_writes
    (hi : (∃ imm, i = .sysGie imm) ∨ (∃ sel, i = .stInit sel) ∨ (∃ b, i = .stWriteByte b) ∨ i = .stReadByte)
    (h : exec i s = .next t) : ∃ u, TransportWrites s u ∧ StoresNothing u t := by
  rcases hi with ⟨imm, rfl⟩ | ⟨sel, rfl⟩ | ⟨b, rfl⟩ | rfl
  · obtain ⟨g, hs⟩ := exec_sysGie_writes h
    exact ⟨_, { }, hs⟩
  · obtain ⟨u, hu, hs⟩ := exec_stInit_writes h
    exact ⟨u, hu.toTransportWrites, hs⟩
  · obtain ⟨v, e, hs, -⟩ := exec_stWriteByte_writes h
    exact ⟨_, { }, hs⟩
  · obtain ⟨x, y, v, d, hs, -⟩ := exec_stReadByte_writes h
    exact ⟨_, { }, hs⟩

end

/-- Settles O58: what the four commands share, then each command's own writes. -/
theorem transportCommandsFrame : Obligations.TransportCommandsFrame := by
  intro i s t hi h
  obtain ⟨u, hu, hs⟩ := exec_transportCommand_writes hi h
  refine ⟨hs.cfg.trans hu.cfg, hs.client.trans hu.client, by rw [hs.inputs, hu.cmds], by rw [hs.inputs, hu.wireIn],
    by rw [hs.inputs, hu.schedule], by rw [hs.wireOut, hu.outputs], by rw [hs.extCalls, hu.outputs],
    by rw [hs.ctx, hu.inIrq], by rw [hs.ctx, hu.critSaved], by simpa [ResponsesMayGrow, hu.outputs] using hs.rsp, ?_⟩
  rcases hi with ⟨imm, rfl⟩ | ⟨sel, rfl⟩ | ⟨b, rfl⟩ | rfl
  · obtain ⟨g, hs⟩ := exec_sysGie_writes h
    exact ⟨fun _ => hs.faults, fun hne => absurd rfl (hne imm),
      fun _ _ => ⟨hs.xport, hs.line, sameRing_of_eq hs.rx, sameRing_of_eq hs.tx⟩, nofun, nofun, nofun⟩
  · obtain ⟨u, hu, hs⟩ := exec_stInit_writes h
    refine ⟨fun hne => absurd rfl (hne sel), fun _ => by rw [hs.ctx, hu.gie], nofun, fun _ _ => ⟨?_, ?_, fun r k => ?_⟩,
      nofun, nofun⟩
    · rw [hs.line, hu.rxData]
    · rw [hs.line, hu.txData]
    · rw [← hu.slots, State.slot, State.slot, hs.ring]
  · obtain ⟨v, e, hs, hv⟩ := exec_stWriteByte_writes h
    refine ⟨fun _ => hs.faults, fun _ => by rw [hs.ctx], nofun, nofun, fun _ _ => ⟨hs.line, sameRing_of_eq hs.rx, ?_, ?_, ?_,
      fun k hk => ?_⟩, nofun⟩
    · rw [hs.tx, hv.out]
    · rw [hs.tx, hv.initialized]
    · rw [hs.xport]
    · exact (congrArg (fun q : Ring => Mem.read q.storage k) hs.tx).trans (hv.slots k hk)
  · obtain ⟨x, y, v, d, hs, hv⟩ := exec_stReadByte_writes h
    refine ⟨fun _ => hs.faults, fun _ => by rw [hs.ctx]; rfl, nofun, nofun, nofun, fun _ => ⟨hs.line, sameRing_of_eq hs.tx, ?_,
      ?_, ?_, fun k => ?_⟩⟩
    · rw [hs.rx]; exact hv.inp
    · rw [hs.rx]; exact hv.initialized
    · rw [hs.xport]; rfl
    · exact congrArg (Mem.read · k) ((congrArg Ring.storage hs.rx).trans hv.storage)

end Sys2Proof.Machine
end

section
/-! The two handlers, each outcome of its body as the state it leaves (R140 to R144), and what a handler leaves as it was
(R151, R189). -/

namespace Sys2Proof.Machine

section
variable {v : EventVector} {body : State → Except Fault State} {b : Byte} {s t : State}

/-! Entry and return (R140, R191, R192). -/

theorem runHandler_of_not_canStart (h : s.canStart v ≠ true) : runHandler v body s = .next s := if_neg h

theorem runHandler_of_canStart (h : s.canStart v = true) (hb : body (irqEntry s) = .ok t) :
    runHandler v body s = .next (irqReturn t) := by
  rw [runHandler, if_pos h, hb]

/-- A handler whose body is no fault does not stop the machine. -/
theorem runHandler_next (h : ∃ t, body (irqEntry s) = .ok t) : ∃ t, runHandler v body s = .next t := by
  obtain ⟨u, hu⟩ := h
  by_cases hstart : s.canStart v = true
  · exact ⟨_, runHandler_of_canStart hstart hu⟩
  · exact ⟨_, runHandler_of_not_canStart hstart⟩

/-! The bodies: the receive event drops or stores (R142), the transmit-ready event disarms or sends (R144). -/

theorem evRxBody_full (h : s.rx.count.toNat = s.cap .rx) :
    evRxBody s = .ok (State.setRxStatus { s with line.rxPending := false } .bufferFull) :=
  if_pos ((isFullCount_iff _ _).mpr h)

theorem evRxBody_room (h : s.rx.count.toNat ≠ s.cap .rx) (hin : s.rx.inp < s.cap .rx) :
    evRxBody s = .ok (State.setRxStatus
      { s with
        line.rxPending := false
        rx.storage := Mem.write s.rx.storage s.rx.inp s.line.rxData
        rx.inp := wrap (s.cap .rx) s.rx.inp
        rx.count := s.rx.count + 1 } .dataPending) :=
  (if_neg (mt (isFullCount_iff _ _).mp h)).trans (by rw [slotWrite_ok (r := .rx) (s := (readRxData s).2) hin]; rfl)

theorem evTxBody_empty (h : s.tx.count = 0) :
    evTxBody s = .ok (State.setTxStatus { s with xport.txIe := false } .idleEmpty) :=
  if_pos ((isEmptyCount_iff _).mpr h)

/-- What `EV_TX` leaves when it sends byte `b`, the draw counter being `d` after the read of the slot (R144). -/
def State.evTxSent (s : State) (b : Byte) (d : Nat) : State :=
  State.setTxStatus
    { s with
      tx.out := wrap (s.cap .tx) s.tx.out
      tx.count := s.tx.count - 1
      line.txData := b
      line.txReady := false
      inputs.draws := d } .transmitting

theorem evTxBody_of_slotRead {d : Nat} (h : s.tx.count ≠ 0) (hr : slotRead .tx s = .ok (b, { s with inputs.draws := d })) :
    evTxBody s = .ok (s.evTxSent b d) :=
  (if_neg (mt (isEmptyCount_iff _).mp h)).trans (by rw [hr]; rfl)

theorem slotRead_unwritten {r : RingId} (h : (s.ring r).out < s.cap r) (hb : s.slot r (s.ring r).out = none) :
    slotRead r s = .ok (Config.freeByte s.inputs.draws, { s with inputs.draws := s.inputs.draws + 1 }) := by
  simp [slotRead, h, hb]

theorem evTxBody_written (h : s.tx.count ≠ 0) (hout : s.tx.out < s.cap .tx) (hb : s.slot .tx s.tx.out = some b) :
    evTxBody s = .ok (s.evTxSent b s.inputs.draws) :=
  evTxBody_of_slotRead h (slotRead_written hout hb)

theorem evTxBody_unwritten (h : s.tx.count ≠ 0) (hout : s.tx.out < s.cap .tx) (hb : s.slot .tx s.tx.out = none) :
    evTxBody s = .ok (s.evTxSent (Config.freeByte s.inputs.draws) (s.inputs.draws + 1)) :=
  evTxBody_of_slotRead h (slotRead_unwritten hout hb)

/-! A cursor that names a slot is all that the bodies need (R27, R63, log 17). -/

theorem exec_evRx_next (hin : s.rx.inp < s.cap .rx) : ∃ t, exec .evRx s = .next t := by
  refine runHandler_next (s := s) ?_
  by_cases hfull : s.rx.count.toNat = s.cap .rx
  · exact ⟨_, evRxBody_full hfull⟩
  · exact ⟨_, evRxBody_room hfull hin⟩

theorem exec_evTx_next (hout : s.tx.out < s.cap .tx) : ∃ t, exec .evTx s = .next t := by
  refine runHandler_next (s := s) ?_
  by_cases hempty : s.tx.count = 0
  · exact ⟨_, evTxBody_empty hempty⟩
  · cases hslot : s.slot .tx s.tx.out with
    | some b => exact ⟨_, evTxBody_written hempty hout hslot⟩
    | none => exact ⟨_, evTxBody_unwritten hempty hout hslot⟩

/-! All that an event writes (R142, R144). -/

/-- `EV_RX` writes RX, as an insert may, `rx_status`, `rx_pending` and the interrupt context. -/
theorem exec_evRx_writes (h : exec .evRx s = .next t) :
    ∃ w st set p g q,
      t = { s with
            rx := w, xport.rxStatus := st, xport.rxStatusSet := set, line.rxPending := p, ctx.gie := g, ctx.inIrq := q } ∧
      InsertKeeps s.rx w := by
  rcases runHandler_inv h with ⟨-, rfl⟩ | ⟨-, u, hu, rfl⟩
  · exact ⟨_, _, _, _, _, _, rfl, { }⟩
  · rcases evRxBody_inv hu with ⟨-, rfl⟩ | ⟨-, -, rfl⟩
    · exact ⟨_, _, _, _, _, _, rfl, { }⟩
    · exact ⟨_, _, _, _, _, _, rfl, { slots := fun _ hk => Mem.read_write_ne _ _ hk }⟩

/-- `EV_TX` writes TX, as a remove may, `tx_status`, `tx_ie`, `tx_data`, `tx_ready`, the draw counter and the interrupt context. -/
theorem exec_evTx_writes (h : exec .evTx s = .next t) :
    ∃ w st set ie b r d g q,
      t = { s with
            tx := w, xport.txStatus := st, xport.txStatusSet := set, xport.txIe := ie, line.txData := b, line.txReady := r,
            inputs.draws := d, ctx.gie := g, ctx.inIrq := q } ∧
      RemoveKeeps s.tx w := by
  rcases runHandler_inv h with ⟨-, rfl⟩ | ⟨-, u, hu, rfl⟩
  · exact ⟨_, _, _, _, _, _, _, _, _, rfl, { }⟩
  · rcases evTxBody_inv hu with ⟨-, rfl⟩ | ⟨-, -, b, d, rfl, -⟩
    · exact ⟨_, _, _, _, _, _, _, _, _, rfl, { }⟩
    · exact ⟨_, _, _, _, _, _, _, _, _, rfl, { }⟩

end

/-- Settles O42: a handler is a step of another agent than MAIN, which leaves the responses and the fault record; the
invariant keeps the cursor it uses inside the ring. -/
theorem handlersNeverFaultNorRespond : Obligations.HandlersNeverFaultNorRespond := by
  rintro i s (rfl | rfl)
  · exact ⟨fun t h => ⟨(evRx_otherStep h).1.rsp, (evRx_otherStep h).1.faults⟩,
      fun hinv => exec_evRx_next (hinv.ringOk .rx).inpLt⟩
  · exact ⟨fun t h => ⟨(evTx_otherStep h).1.rsp, (evTx_otherStep h).1.faults⟩,
      fun hinv => exec_evTx_next (hinv.ringOk .tx).outLt⟩

/-- Settles O60: each event's own writes. -/
theorem eventsFrame : Obligations.EventsFrame := by
  rintro i s t (rfl | rfl) h
  · obtain ⟨w, st, set, p, g, q, rfl, hw⟩ := exec_evRx_writes h
    exact ⟨rfl, rfl, rfl, rfl, rfl, rfl, rfl, rfl, rfl, rfl, rfl, rfl, rfl, rfl, hw.initialized, rfl,
      fun _ => ⟨sameRing_of_eq rfl, rfl, rfl, rfl, rfl, rfl, hw.slots⟩, nofun⟩
  · obtain ⟨w, st, set, ie, b, r, d, g, q, rfl, hw⟩ := exec_evTx_writes h
    exact ⟨rfl, rfl, rfl, rfl, rfl, rfl, rfl, rfl, rfl, rfl, rfl, rfl, rfl, rfl, rfl, hw.initialized, nofun,
      fun _ => ⟨sameRing_of_eq rfl, rfl, rfl, fun k => congrArg (Mem.read · k) hw.storage⟩⟩

/-- Settles O39: the trigger is `canStart`, and the two outcomes are those of the body between entry and return. -/
theorem evRxStoresOrDropsTheByte : Obligations.EvRxStoresOrDropsTheByte := by
  intro s trigger
  have hstart : s.canStart .rx = true ↔ trigger := canStart_rx_iff s
  refine ⟨fun hno => ?_, fun ht hfull => ?_, fun ht hroom hin => ?_⟩
  · exact runHandler_of_not_canStart (mt hstart.mp hno)
  · exact runHandler_of_canStart (hstart.mpr ht) (evRxBody_full hfull)
  · exact runHandler_of_canStart (hstart.mpr ht) (evRxBody_room hroom hin)

/-- Settles O40: the trigger is `canStart`, and the three outcomes are those of the body between entry and return. -/
theorem evTxSendsOrDisarms : Obligations.EvTxSendsOrDisarms := by
  intro s b trigger
  have hstart : s.canStart .tx = true ↔ trigger := canStart_tx_iff s
  refine ⟨fun hno => ?_, fun ht hempty => ?_, fun ht hne hout hb => ?_,
    fun ht hne hout hb => ⟨Config.freeByte s.inputs.draws, ?_⟩⟩
  · exact runHandler_of_not_canStart (mt hstart.mp hno)
  · exact runHandler_of_canStart (hstart.mpr ht) (evTxBody_empty hempty)
  · exact runHandler_of_canStart (hstart.mpr ht) (evTxBody_written hne hout hb)
  · exact runHandler_of_canStart (hstart.mpr ht) (evTxBody_unwritten hne hout hb)

end Sys2Proof.Machine
end

section
/-! The steps of the line device (R145 to R147), and the critical section (R148). -/

namespace Sys2Proof.Machine

section
variable {b : Byte} {bs : List Byte} {s : State}

theorem arrive_off (hw : s.inputs.wireIn = b :: bs) (hoff : s.line.on = false) :
    arrive s = { s with inputs.wireIn := bs } := by
  simp [arrive, hw, hoff]

theorem arrive_delivered (hw : s.inputs.wireIn = b :: bs) (hon : s.line.on = true) (hfree : s.line.rxPending = false) :
    arrive s = { s with inputs.wireIn := bs, line.rxData := b, line.rxPending := true } := by
  simp [arrive, hw, hon, hfree]

theorem arrive_overrun (hw : s.inputs.wireIn = b :: bs) (hon : s.line.on = true) (hpend : s.line.rxPending = true) :
    arrive s =
      { s with
        inputs.wireIn := bs
        inputs.draws := s.inputs.draws + 1
        line.rxData := if Config.freeOverrun s.inputs.draws then b else s.line.rxData } := by
  simp [arrive, hw, hon, hpend]

theorem take_enabled (hon : s.line.on = true) (hbusy : s.line.txReady = false) :
    take s = { s with outputs.wireOut := s.outputs.wireOut ++ [s.line.txData], line.txReady := true } := by
  simp [take, hon, hbusy]

theorem take_disabled (h : s.line.on = false ∨ s.line.txReady = true) : take s = s := by
  rcases h with hoff | hready
  · simp [take, hoff]
  · simp [take, hready]

theorem exitCrit_of_saved {g : Bool} {rest : List Bool} (h : s.ctx.critSaved = g :: rest) :
    exitCrit s = { s with ctx.critSaved := rest, ctx.gie := g } := by
  rw [exitCrit, h]

end

/-- Settles O43: the three cases of `ARRIVE`, the overrun's free choice being one of the two bytes. -/
theorem arrivalDeliversOrOverruns : Obligations.ArrivalDeliversOrOverruns :=
  fun _ _ _ hw => ⟨arrive_off hw, arrive_delivered hw,
    fun hon hpend => ⟨_, ite_eq_or_eq _ _ _, arrive_overrun hw hon hpend⟩⟩

/-- Settles O44: `TAKE` enabled, and not. -/
theorem takePutsTheByteOnTheLine : Obligations.TakePutsTheByteOnTheLine := fun _ => ⟨take_enabled, take_disabled⟩

/-- Settles O45: the exit restores the innermost saved state, which the body has left. -/
theorem criticalSectionRestoresTheMask : Obligations.CriticalSectionRestoresTheMask :=
  fun _ _ hsaved => ⟨rfl, exitCrit_of_saved hsaved⟩

end Sys2Proof.Machine
end

section
/-! The micro-steps of the client's commands: `LA_POLL` (R162 to R165) and `LA_DISPATCH` (R167 to R171). -/

namespace Sys2Proof.Machine

section
variable {v : Word} {b : Byte} {bs : List Byte} {ph : Phase} {s : State}

/-! A command in progress takes the micro-step that the phase names. -/

theorem exec_laPoll_of_runs (h : s.runs .laPoll ph) (hp : Instr.hasPhase .laPoll ph = true) :
    exec .laPoll s = microLaPoll s :=
  runCommand_running h.1 (h.2 ▸ hp)

theorem exec_laDispatch_of_runs (h : s.runs .laDispatch ph) (hp : Instr.hasPhase .laDispatch ph = true) :
    exec .laDispatch s = microLaDispatch s :=
  runCommand_running h.1 (h.2 ▸ hp)

/-! P1 and X1 to X3 (R162). -/

theorem exec_laPoll_p1 (h : s.runs .laPoll .p1) :
    exec .laPoll s = .next (if s.rx.count = 0 then ret 0 s else goto .x1 s) := by
  rw [exec_laPoll_of_runs h rfl]
  simp only [microLaPoll, h.2, atomicCount_eq, isEmptyCount_iff, State.ring_rx]

theorem exec_laPoll_x1 (h : s.runs .laPoll .x1) : exec .laPoll s = stepX1 .rx s := by
  rw [exec_laPoll_of_runs h rfl]; simp only [microLaPoll, h.2]

theorem exec_laPoll_x1_written (h : s.runs .laPoll .x1) (hout : s.rx.out < s.cap .rx)
    (hb : s.slot .rx s.rx.out = some b) : exec .laPoll s = .next { s with main.byte := b, main.phase := .x2 } :=
  (exec_laPoll_x1 h).trans (stepX1_ok hout hb)

theorem exec_laPoll_x1_unwritten (h : s.runs .laPoll .x1) (hout : s.rx.out < s.cap .rx)
    (hb : s.slot .rx s.rx.out = none) :
    ∃ c, exec .laPoll s = .next { s with main.byte := c, main.phase := .x2, inputs.draws := s.inputs.draws + 1 } :=
  ⟨_, (exec_laPoll_x1 h).trans (stepX1_unwritten hout hb)⟩

theorem exec_laPoll_x2 (h : s.runs .laPoll .x2) :
    exec .laPoll s = .next (goto .x3 { s with rx.out := wrap (s.cap .rx) s.rx.out }) := by
  rw [exec_laPoll_of_runs h rfl]; simp only [microLaPoll, h.2]; rfl

theorem exec_laPoll_x3 (h : s.runs .laPoll .x3) :
    exec .laPoll s = .next
      (goto (if s.main.byte = 0x0A then .handoff else .store) { s with rx.count := s.rx.count - 1 }) := by
  rw [exec_laPoll_of_runs h rfl]; simp only [microLaPoll, h.2, stepX3, atomically_countDown]; rfl

/-! The handoff and the assignments after it (R162, R165). -/

theorem exec_laPoll_handoff (h : s.runs .laPoll .handoff) :
    exec .laPoll s = .next (goto .handoffIdx
      { s with client.cmdBuf := s.client.lineBuf, client.lineBuf := Vector.replicate 8 0 }) := by
  rw [exec_laPoll_of_runs h rfl]; simp only [microLaPoll, h.2, handoff_eq]

theorem exec_laPoll_handoffIdx (h : s.runs .laPoll .handoffIdx) :
    exec .laPoll s = .next (goto .handoffReady { s with client.widx := 0 }) := by
  rw [exec_laPoll_of_runs h rfl]; simp only [microLaPoll, h.2]

theorem exec_laPoll_handoffReady (h : s.runs .laPoll .handoffReady) :
    exec .laPoll s = .next (goto .p1 { s with client.cmdReady := true }) := by
  rw [exec_laPoll_of_runs h rfl]; simp only [microLaPoll, h.2]

/-! The store, with its bound, and the index (R163, R164). -/

theorem exec_laPoll_store (h : s.runs .laPoll .store) :
    exec .laPoll s = .next (if 7 ≤ s.client.widx then raise .lineTooLong s else
      goto .storeIdx { s with client.lineBuf := s.client.lineBuf.setIfInBounds s.client.widx s.main.byte }) := by
  rw [exec_laPoll_of_runs h rfl]; simp only [microLaPoll, h.2]; rfl

theorem exec_laPoll_storeIdx (h : s.runs .laPoll .storeIdx) :
    exec .laPoll s = .next (goto .p1 { s with client.widx := s.client.widx + 1 }) := by
  rw [exec_laPoll_of_runs h rfl]; simp only [microLaPoll, h.2]

/-! The tests of `LA_DISPATCH` (R167), and a query by its key (R169 to R171). -/

theorem exec_laDispatch_route (h : s.runs .laDispatch .route) : exec .laDispatch s = .next (routeCommand s) := by
  rw [exec_laDispatch_of_runs h rfl]; simp only [microLaDispatch, h.2]

theorem routeCommand_idle (hr : s.client.cmdReady = false) : routeCommand s = ret 0 s := by
  simp [routeCommand, hr]

theorem routeCommand_query (hr : s.client.cmdReady = true) (hm : s.client.cmdBuf[1] = markQuery) :
    routeCommand s = query s.client.cmdBuf[0] s := by
  simp [routeCommand, hr, hm]

theorem routeCommand_assign (hr : s.client.cmdReady = true) (hm : s.client.cmdBuf[1] = markAssign) :
    routeCommand s = goto .assign s := by
  simp [routeCommand, hr, hm, show markAssign ≠ markQuery by decide]

theorem routeCommand_unmarked (hr : s.client.cmdReady = true) (hq : s.client.cmdBuf[1] ≠ markQuery)
    (ha : s.client.cmdBuf[1] ≠ markAssign) : routeCommand s = goto .done s := by
  simp [routeCommand, hr, hq, ha]

/-- The response to `S?` is never empty, so its first byte is sent next (R169). -/
theorem query_sensitivity {key : Byte} (hk : key = keyS) :
    query key s = { s with main.toSend := sensitivityText s.client.sensitivity, main.phase := .w1 } := by
  subst hk; rfl

/-- The shape of a collaborator's text, by its key (R170). -/
def IsExtText (key : Byte) (text : List Byte) : Prop :=
  key = keyT ∧ (∃ l, text = probeText l) ∨ key = keyD ∧ (∃ c, text = clockText c) ∨
    key = keyH ∧ ∃ p, text = humidityText p

theorem extQuery_of_external {key : Byte} (hk : key ∈ [keyT, keyD, keyH]) (d : Nat) :
    ∃ text, IsExtText key text ∧ extQuery key d = some text := by
  simp only [List.mem_cons, List.not_mem_nil, or_false] at hk
  rcases hk with rfl | rfl | rfl
  · exact ⟨_, .inl ⟨rfl, _, rfl⟩, rfl⟩
  · exact ⟨_, .inr (.inl ⟨rfl, _, rfl⟩), rfl⟩
  · exact ⟨_, .inr (.inr ⟨rfl, _, rfl⟩), rfl⟩

theorem extQuery_unknown {key : Byte} (hk : key ∉ [keyS, keyT, keyD, keyH]) (d : Nat) :
    extQuery key d = none := by
  simp only [List.mem_cons, List.not_mem_nil, or_false, not_or] at hk
  obtain ⟨-, ht, hd, hh⟩ := hk
  rw [extQuery, if_neg ht, if_neg hd, if_neg hh]

theorem ne_keyS_of_external {key : Byte} (hk : key ∈ [keyT, keyD, keyH]) : key ≠ keyS := by
  rintro rfl; exact absurd hk (by decide)

theorem ne_keyS_of_unknown {key : Byte} (hk : key ∉ [keyS, keyT, keyD, keyH]) : key ≠ keyS := by
  rintro rfl; exact hk (by decide)

theorem query_external {key : Byte} (hk : key ∈ [keyT, keyD, keyH]) :
    ∃ text, IsExtText key text ∧ query key s =
      { s with
        main.toSend := text
        main.phase := if text = [] then .done else .w1
        inputs.draws := s.inputs.draws + 1
        outputs.extCalls := s.outputs.extCalls ++ [.query key] } := by
  obtain ⟨text, hshape, htext⟩ := extQuery_of_external hk s.inputs.draws
  exact ⟨text, hshape, by simp only [query, if_neg (ne_keyS_of_external hk), htext]; rfl⟩

theorem query_unknown {key : Byte} (hk : key ∉ [keyS, keyT, keyD, keyH]) : query key s = goto .done s := by
  simp only [query, if_neg (ne_keyS_of_unknown hk), extQuery_unknown hk]

/-! The assignment by its key (R168 to R171). -/

theorem parsedValue_of_some (hv : parseInt (content s.client.cmdBuf) = some v) : parsedValue s = (v, s) := by
  simp only [parsedValue, hv]

theorem parsedValue_of_none (hv : parseInt (content s.client.cmdBuf) = none) :
    parsedValue s = (Config.freeNum s.inputs.draws, { s with inputs.draws := s.inputs.draws + 1 }) := by
  simp only [parsedValue, hv]

theorem assignKey_external {key : Byte} (hk : key ∈ [keyT, keyD, keyH]) :
    assignKey key v s = { s with outputs.extCalls := s.outputs.extCalls ++ [.assign key v] } := by
  have hext : key = keyT ∨ key = keyD ∨ key = keyH := by simpa using hk
  rw [assignKey, if_neg (ne_keyS_of_external hk), if_pos hext]

theorem assignKey_unknown {key : Byte} (hk : key ∉ [keyS, keyT, keyD, keyH]) : assignKey key v s = s := by
  have hext : ¬ (key = keyT ∨ key = keyD ∨ key = keyH) := by
    rintro (rfl | rfl | rfl) <;> exact hk (by decide)
  rw [assignKey, if_neg (ne_keyS_of_unknown hk), if_neg hext]

theorem exec_laDispatch_assign (h : s.runs .laDispatch .assign) :
    exec .laDispatch s = .next (goto .done (assignKey s.client.cmdBuf[0] (parsedValue s).1 (parsedValue s).2)) := by
  rw [exec_laDispatch_of_runs h rfl]; simp only [microLaDispatch, h.2]

/-- A value that the spec defines is assigned as it is (R168). -/
theorem exec_laDispatch_assign_some (h : s.runs .laDispatch .assign)
    (hv : parseInt (content s.client.cmdBuf) = some v) :
    exec .laDispatch s = .next (goto .done (assignKey s.client.cmdBuf[0] v s)) := by
  rw [exec_laDispatch_assign h, parsedValue_of_some hv]

/-- Where the spec defines no value a free one is drawn, whatever the key (U7, log 10). -/
theorem exec_laDispatch_assign_none (h : s.runs .laDispatch .assign)
    (hv : parseInt (content s.client.cmdBuf) = none) :
    exec .laDispatch s = .next (goto .done (assignKey s.client.cmdBuf[0] (Config.freeNum s.inputs.draws)
      { s with inputs.draws := s.inputs.draws + 1 })) := by
  rw [exec_laDispatch_assign h, parsedValue_of_none hv]

/-! The sending of a byte, W1, I1 to I3 and W2 (R124), and the end (R167). -/

theorem exec_laDispatch_w1 (h : s.runs .laDispatch .w1) :
    exec .laDispatch s = .next (if s.tx.count.toNat = s.cap .tx then s else goto .i1 s) := by
  rw [exec_laDispatch_of_runs h rfl, apply_ite Host.Outcome.next]
  simp only [microLaDispatch, h.2, stepW1, atomicCount_eq, State.ring_tx]

theorem exec_laDispatch_i1 (h : s.runs .laDispatch .i1) (hin : s.tx.inp < s.cap .tx) (hsend : s.main.toSend = b :: bs) :
    exec .laDispatch s = .next (goto .i2 { s with tx.storage := Mem.write s.tx.storage s.tx.inp b }) := by
  rw [exec_laDispatch_of_runs h rfl]; simp only [microLaDispatch, h.2, hsend]; exact stepI1_ok hin

theorem exec_laDispatch_i2 (h : s.runs .laDispatch .i2) :
    exec .laDispatch s = .next (goto .i3 { s with tx.inp := wrap (s.cap .tx) s.tx.inp }) := by
  rw [exec_laDispatch_of_runs h rfl]; simp only [microLaDispatch, h.2]; rfl

theorem exec_laDispatch_i3 (h : s.runs .laDispatch .i3) :
    exec .laDispatch s = .next (goto .w2 { s with tx.count := s.tx.count + 1 }) := by
  rw [exec_laDispatch_of_runs h rfl]; simp only [microLaDispatch, h.2, stepI3, atomically_countUp]; rfl

theorem exec_laDispatch_w2 (h : s.runs .laDispatch .w2) (hsend : s.main.toSend = b :: bs) :
    exec .laDispatch s = .next
      { s with xport.txIe := true, main.toSend := bs, main.phase := if bs = [] then .done else .w1 } := by
  rw [exec_laDispatch_of_runs h rfl]; simp only [microLaDispatch, h.2, sentByte, hsend]; rfl

theorem exec_laDispatch_done (h : s.runs .laDispatch .done) :
    exec .laDispatch s = .next (ret 0 { s with client.cmdReady := false }) := by
  rw [exec_laDispatch_of_runs h rfl]; simp only [microLaDispatch, h.2]

end

/-- Settles O46: P1 goes either way by the test for an empty ring, X1 by whether the slot was ever written, the store by the
bound on the index. -/
theorem laPollMicroSteps : Obligations.LaPollMicroSteps := by
  refine fun b s => ⟨fun h hempty => ?_, fun h hne => ?_, exec_laPoll_x1_written, exec_laPoll_x1_unwritten, exec_laPoll_x2,
    exec_laPoll_x3, exec_laPoll_handoff, exec_laPoll_handoffIdx, exec_laPoll_handoffReady, fun h hroom => ?_,
    fun h hlong => ?_, exec_laPoll_storeIdx⟩
  · rw [exec_laPoll_p1 h, if_pos hempty]
  · rw [exec_laPoll_p1 h, if_neg hne]
  · rw [exec_laPoll_store h, if_neg hroom.not_ge]
  · rw [exec_laPoll_store h, if_pos hlong]

/-- Settles O48: the tests go by `cmd_ready`, the marker and the key, the assignment by the key and whether the spec defines the
value, W1 by the test for a full ring. -/
theorem laDispatchMicroSteps : Obligations.LaDispatchMicroSteps := by
  refine fun v b bs s => ⟨fun h hr => ?_, fun h hr hm hk => ?_, fun h hr hm hk => ?_, fun h hr hm hk => ?_, fun h hr hm => ?_,
    fun h hr hq ha => ?_, fun h hk hv => ?_, fun h hk hv => ⟨Config.freeNum s.inputs.draws, ?_⟩, fun h hk hv => ?_,
    fun h hk hv => ⟨Config.freeNum s.inputs.draws, ?_⟩, fun h hk hv => ?_, fun h hk hv => ?_, fun h hfull => ?_,
    fun h hroom => ?_, exec_laDispatch_i1, exec_laDispatch_i2, exec_laDispatch_i3, exec_laDispatch_w2, exec_laDispatch_done⟩
  · rw [exec_laDispatch_route h, routeCommand_idle hr]
  · rw [exec_laDispatch_route h, routeCommand_query hr hm, query_sensitivity hk]
  · rw [exec_laDispatch_route h, routeCommand_query hr hm, query_unknown hk]
  · obtain ⟨text, hshape, htext⟩ := query_external (s := s) hk
    exact ⟨text, hshape, by rw [exec_laDispatch_route h, routeCommand_query hr hm, htext]⟩
  · rw [exec_laDispatch_route h, routeCommand_assign hr hm]
  · rw [exec_laDispatch_route h, routeCommand_unmarked hr hq ha]
  · rw [exec_laDispatch_assign_some h hv, hk]; rfl
  · rw [exec_laDispatch_assign_none h hv, hk]; rfl
  · rw [exec_laDispatch_assign_some h hv, assignKey_external hk]
  · rw [exec_laDispatch_assign_none h hv, assignKey_external hk]
  · rw [exec_laDispatch_assign_some h hv, assignKey_unknown hk]
  · rw [exec_laDispatch_assign_none h hv, assignKey_unknown hk]
  · rw [exec_laDispatch_w1 h, if_pos hfull]
  · rw [exec_laDispatch_w1 h, if_neg hroom]

end Sys2Proof.Machine
end

section
/-! The client's commands run by MAIN alone: the line that `LA_POLL` assembles (R162 to R165, R174), and the response that
`LA_DISPATCH` sends (R167, R169). -/

namespace Sys2Proof.Machine

/-- MAIN is at P1 of `LA_POLL` with `acc` in the line buffer, its tail zero, and `rest` and a terminator waiting in RX. -/
structure Polling (acc rest : List Byte) (s : State) : Prop where
  runs : s.runs .laPoll .p1
  outLt : s.rx.out < s.cap .rx
  waiting : s.contents .rx = rest.map some ++ [some 0x0A]
  widx : s.client.widx = acc.length
  lineBuf : s.client.lineBuf.toList = acc ++ List.replicate (8 - acc.length) 0

/-- MAIN sends `bs` by `LA_DISPATCH`, with room for it at the end of the TX queue. -/
structure Sending (bs : List Byte) (s : State) : Prop where
  runs : s.runs .laDispatch (if bs = [] then .done else .w1)
  toSend : s.main.toSend = bs
  inpLt : s.tx.inp < s.cap .tx
  atEnd : (s.tx.out + s.tx.count.toNat) % s.cap .tx = s.tx.inp
  room : s.tx.count.toNat + bs.length ≤ s.cap .tx

section
variable {b : Byte} {acc rest bs : List Byte} {c : Option Byte} {tail : List (Option Byte)} {s : State}

/-! The line. -/

theorem length_contents (s : State) (r : RingId) : (s.contents r).length = (s.ring r).count.toNat := by
  simp [State.contents]

/-- Of a queue that is not empty, the head stands in the slot `out` names, and a remove leaves the rest (R71, R104). -/
theorem contents_cons_inv (hout : s.rx.out < s.cap .rx) (h : s.contents .rx = c :: tail) :
    s.rx.count ≠ 0 ∧ s.slot .rx s.rx.out = c ∧ (s.setRing .rx (s.rx.pop (s.cap .rx))).contents .rx = tail := by
  have hpos : 0 < s.rx.count.toNat := by
    rw [← State.ring_rx, ← length_contents, h]; exact Nat.succ_pos _
  rw [contents_eq_cons_pop (r := .rx) hout hpos, List.cons.injEq] at h
  exact ⟨by bv_omega, h⟩

/-- P1 and X1 to X3 with a byte waiting: it leaves the ring for MAIN's variable, which decides what follows (R162). -/
theorem mainRun_laPoll_byte (n : Nat) (h : s.runs .laPoll .p1) (hout : s.rx.out < s.cap .rx) (hne : s.rx.count ≠ 0)
    (hb : s.slot .rx s.rx.out = some b) :
    mainRun .laPoll (n + 4) s = mainRun .laPoll n (goto (if b = 0x0A then .handoff else .store)
      { s with main.byte := b, rx := s.rx.pop (s.cap .rx) }) := by
  rw [mainRun_of_exec _ (exec_laPoll_p1 h), if_neg hne]
  rw [mainRun_of_exec _ (exec_laPoll_x1_written ⟨by exact h.1, rfl⟩ (by exact hout) (by exact hb))]
  rw [mainRun_of_exec _ (exec_laPoll_x2 ⟨by exact h.1, rfl⟩)]
  rw [mainRun_of_exec _ (exec_laPoll_x3 ⟨by exact h.1, rfl⟩)]
  rfl

/-- A byte of the line that fits: the store and the index (R163, R164). -/
theorem mainRun_laPoll_store (n : Nat) (h : s.runs .laPoll .store) (hroom : s.client.widx < 7) :
    mainRun .laPoll (n + 2) s = mainRun .laPoll n (goto .p1
      { s with
        client.lineBuf := s.client.lineBuf.setIfInBounds s.client.widx s.main.byte
        client.widx := s.client.widx + 1 }) := by
  rw [mainRun_of_exec _ (exec_laPoll_store h), if_neg hroom.not_ge]
  rw [mainRun_of_exec _ (exec_laPoll_storeIdx ⟨by exact h.1, rfl⟩)]
  rfl

/-- The handoff with nothing more in RX, up to the return (R162, R165). -/
theorem mainRun_laPoll_handoff (h : s.runs .laPoll .handoff) (hempty : s.rx.count = 0) :
    mainRun .laPoll 4 s = .next (ret 0
      { s with
        client := { s.client with
          cmdBuf := s.client.lineBuf, lineBuf := Vector.replicate 8 0, widx := 0, cmdReady := true } }) := by
  rw [mainRun_of_exec _ (exec_laPoll_handoff h)]
  rw [mainRun_of_exec _ (exec_laPoll_handoffIdx ⟨by exact h.1, rfl⟩)]
  rw [mainRun_of_exec _ (exec_laPoll_handoffReady ⟨by exact h.1, rfl⟩)]
  rw [mainRun_of_exec _ (exec_laPoll_p1 ⟨by exact h.1, rfl⟩), if_pos (by exact hempty)]
  rfl

/-- A store at the first zero of the tail (R163). -/
theorem toList_setIfInBounds_tail {buf : Vector Byte 8} (hbuf : buf.toList = acc ++ List.replicate (8 - acc.length) 0)
    (hlen : acc.length < 8) (b : Byte) :
    (buf.setIfInBounds acc.length b).toList = acc ++ [b] ++ List.replicate (8 - (acc ++ [b]).length) 0 := by
  obtain ⟨k, hk⟩ : ∃ k, 8 - acc.length = k + 1 := Nat.exists_eq_succ_of_ne_zero (by omega)
  have hk' : 8 - (acc ++ [b]).length = k := by rw [List.length_append, List.length_singleton]; omega
  rw [Vector.toList_setIfInBounds, hbuf, List.set_append_right _ _ (Nat.le_refl _), Nat.sub_self, hk, hk']
  simp [List.replicate_succ]

/-- One round of the assembler: a byte of the line goes to the line buffer (R163). -/
theorem Polling.byte (h : Polling acc (b :: rest) s) (hb : b ≠ 0x0A) (hlen : acc.length < 7) :
    ∃ t, (∀ n, mainRun .laPoll (n + 6) s = mainRun .laPoll n t) ∧ Polling (acc ++ [b]) rest t ∧ t.outputs = s.outputs := by
  obtain ⟨hne, hhead, htail⟩ := contents_cons_inv h.outLt h.waiting
  have hroom : s.client.widx < 7 := by rw [h.widx]; exact hlen
  refine ⟨_, fun n => (mainRun_laPoll_byte (n + 2) h.runs h.outLt hne hhead).trans
    (mainRun_laPoll_store n ⟨h.runs.1, if_neg hb⟩ hroom), ?_, rfl⟩
  exact {
    runs := ⟨h.runs.1, rfl⟩
    outLt := wrap_lt h.outLt
    waiting := htail
    widx := by simpa using h.widx
    lineBuf := by simpa [h.widx] using toList_setIfInBounds_tail h.lineBuf (by omega) b }

/-- All rounds of a line that fits, by induction on what waits (R163, R174). -/
theorem Polling.line (h : Polling acc rest s) (hterm : ∀ b ∈ rest, b ≠ 0x0A) (hlen : acc.length + rest.length ≤ 7) :
    ∃ t, (∀ n, mainRun .laPoll (n + 6 * rest.length) s = mainRun .laPoll n t) ∧ Polling (acc ++ rest) [] t ∧
      t.outputs = s.outputs := by
  induction rest generalizing acc s with
  | nil => exact ⟨s, fun _ => rfl, by rwa [List.append_nil], rfl⟩
  | cons b rest ih =>
    rw [List.length_cons] at hlen
    obtain ⟨u, hrun, hu, houtputs⟩ := h.byte (hterm b List.mem_cons_self) (by omega)
    obtain ⟨t, hrun', ht, houtputs'⟩ := ih hu (fun c hc => hterm c (List.mem_cons_of_mem b hc)) (by
      rw [List.length_append, List.length_singleton]; omega)
    refine ⟨t, fun n => ?_, by simpa using ht, houtputs'.trans houtputs⟩
    rw [List.length_cons, Nat.mul_succ, ← Nat.add_assoc, hrun, hrun']

/-- The terminator hands the line over and, with nothing left in RX, ends the command (R162, R165). -/
theorem Polling.terminator (h : Polling acc [] s) :
    ∃ t, mainRun .laPoll 8 s = .next t ∧ t.client.cmdBuf = s.client.lineBuf ∧ t.client.lineBuf = Vector.replicate 8 0 ∧
      t.client.widx = 0 ∧ t.client.cmdReady = true ∧ t.contents .rx = [] ∧ t.main.op = none ∧
      t.outputs.rsp = s.outputs.rsp ++ [0x00000] := by
  obtain ⟨hne, hhead, htail⟩ := contents_cons_inv h.outLt h.waiting
  have hempty : (s.rx.pop (s.cap .rx)).count = 0 := by
    have hlen := congrArg List.length htail
    rw [length_contents, State.setRing_ring_self] at hlen
    exact BitVec.eq_of_toNat_eq hlen
  exact ⟨_, (mainRun_laPoll_byte 4 h.runs h.outLt hne hhead).trans
    (mainRun_laPoll_handoff ⟨h.runs.1, rfl⟩ hempty), rfl, rfl, rfl, rfl, htail, rfl, rfl⟩

/-! The response. -/

/-- One `write_byte` of a response with room for it: W1, I1 to I3, whose writes together are one `push`, and W2 (R124, R169). -/
theorem mainRun_laDispatch_byte (n : Nat) (h : s.runs .laDispatch .w1) (hsend : s.main.toSend = b :: bs)
    (hin : s.tx.inp < s.cap .tx) (hroom : s.tx.count.toNat ≠ s.cap .tx) :
    mainRun .laDispatch (n + 5) s = mainRun .laDispatch n
      { s with
        tx := s.tx.push (s.cap .tx) b
        xport.txIe := true
        main.toSend := bs
        main.phase := if bs = [] then .done else .w1 } := by
  rw [mainRun_of_exec _ (exec_laDispatch_w1 h), if_neg hroom]
  rw [mainRun_of_exec _ (exec_laDispatch_i1 ⟨by exact h.1, rfl⟩ (by exact hin) (by exact hsend))]
  rw [mainRun_of_exec _ (exec_laDispatch_i2 ⟨by exact h.1, rfl⟩)]
  rw [mainRun_of_exec _ (exec_laDispatch_i3 ⟨by exact h.1, rfl⟩)]
  rw [mainRun_of_exec _ (exec_laDispatch_w2 ⟨by exact h.1, rfl⟩ (by exact hsend))]
  rfl

/-- One byte of the response joins the queue, and the notification is armed. -/
theorem Sending.byte (h : Sending (b :: bs) s) :
    ∃ t, (∀ n, mainRun .laDispatch (n + 5) s = mainRun .laDispatch n t) ∧ Sending bs t ∧
      t.contents .tx = s.contents .tx ++ [some b] ∧ t.xport.txIe = true ∧ t.outputs = s.outputs := by
  have hlen := h.room
  rw [List.length_cons] at hlen
  have hroom : s.tx.count.toNat < s.cap .tx := by omega
  have hcount : (s.tx.count + 1).toNat = s.tx.count.toNat + 1 := toNat_add_one_of_lt (s.cap_le .tx) hroom
  refine ⟨_, fun n => mainRun_laDispatch_byte n h.runs h.toSend h.inpLt hroom.ne, ?_,
    contents_push (r := .tx) hroom h.atEnd, rfl, rfl⟩
  exact {
    runs := ⟨h.runs.1, rfl⟩
    toSend := rfl
    inpLt := wrap_lt h.inpLt
    atEnd := by
      change (s.tx.out + (s.tx.count + 1).toNat) % s.cap .tx = wrap (s.cap .tx) s.tx.inp
      rw [hcount, wrap_eq_mod h.inpLt, ← h.atEnd, Nat.mod_add_mod, Nat.add_assoc]
    room := by
      change (s.tx.count + 1).toNat + bs.length ≤ s.cap .tx
      omega }

/-- The whole response, by induction on the bytes still to send. -/
theorem Sending.all (h : Sending bs s) :
    ∃ t, (∀ n, mainRun .laDispatch (n + 5 * bs.length) s = mainRun .laDispatch n t) ∧ Sending [] t ∧
      t.contents .tx = s.contents .tx ++ bs.map some ∧ (bs ≠ [] ∨ s.xport.txIe = true → t.xport.txIe = true) ∧
      t.outputs = s.outputs := by
  induction bs generalizing s with
  | nil => exact ⟨s, fun _ => rfl, h, (List.append_nil _).symm, fun harm => harm.resolve_left (absurd rfl), rfl⟩
  | cons b bs ih =>
    obtain ⟨u, hrun, hu, hcontents, harmed, houtputs⟩ := h.byte
    obtain ⟨t, hrun', ht, hcontents', harmed', houtputs'⟩ := ih hu
    refine ⟨t, fun n => ?_, ht, ?_, fun _ => harmed' (.inr harmed), houtputs'.trans houtputs⟩
    · rw [List.length_cons, Nat.mul_succ, ← Nat.add_assoc, hrun, hrun']
    · rw [hcontents', hcontents, List.append_assoc]; rfl

end

/-- Settles O47: the acceptance, a round for each byte of the line, and the terminator. -/
theorem polledLineReachesTheCommandBuffer : Obligations.PolledLineReachesTheCommandBuffer := by
  intro line s hop hc hout hlen hterm hcontents hwidx hbuf
  have hstart : Polling [] line (accept .laPoll .p1 s) :=
    { runs := ⟨rfl, rfl⟩, outLt := hout, waiting := hcontents, widx := hwidx, lineBuf := by simp [hbuf] }
  obtain ⟨u, hrun, hu, houtputs⟩ := hstart.line hterm (by simpa using hlen)
  obtain ⟨t, hend, hcmd, hline, hidx, hready, hempty, hidle, hrsp⟩ := hu.terminator
  refine ⟨t, ?_, ?_, hline, hidx, hready, hempty, hidle, by rw [hrsp, houtputs, accept_outputs]⟩
  · rw [show 6 * line.length + 9 = 8 + 6 * line.length + 1 by omega, mainRun_of_accepted _ rfl hop hc]
    exact (hrun 8).trans hend
  · rw [hcmd, hu.lineBuf, List.nil_append]

/-- Settles O49: the acceptance, the test that finds the query, a `write_byte` for each byte of the response, and the end. -/
theorem sensitivityQueryQueuesItsResponse : Obligations.SensitivityQueryQueuesItsResponse := by
  intro s hop hc hok hend hready hkey hmark hroom
  have hroute (n : Nat) : mainRun .laDispatch (n + 1) (accept .laDispatch .route s) =
      mainRun .laDispatch n (query s.client.cmdBuf[0] (accept .laDispatch .route s)) :=
    mainRun_of_exec n ((exec_laDispatch_route ⟨rfl, rfl⟩).trans (congrArg _ (routeCommand_query hready hmark)))
  rw [query_sensitivity hkey] at hroute
  have hstart : Sending (sensitivityText s.client.sensitivity)
      { accept .laDispatch .route s with main.toSend := sensitivityText s.client.sensitivity, main.phase := .w1 } :=
    { runs := ⟨rfl, rfl⟩, toSend := rfl, inpLt := hok.inpLt, atEnd := hend, room := hroom }
  obtain ⟨t, hrun, ht, hcontents, harmed, houtputs⟩ := hstart.all
  refine ⟨ret 0 { t with client.cmdReady := false }, ?_, hcontents, harmed (.inl (List.cons_ne_nil _ _)), rfl, rfl,
    congrArg (fun o : Outputs => o.rsp ++ [0x00000]) houtputs⟩
  rw [show 5 * (sensitivityText s.client.sensitivity).length + 3 =
    1 + 5 * (sensitivityText s.client.sensitivity).length + 1 + 1 by omega]
  rw [mainRun_of_accepted _ rfl hop hc]
  refine (hroute _).trans ((hrun 1).trans ?_)
  rw [mainRun_of_exec _ (exec_laDispatch_done ht.runs)]
  rfl

end Sys2Proof.Machine
end

section
/-! What the client's commands leave as it was (R160, R162, R167, R169). -/

namespace Sys2Proof.Machine

/-- What neither command of the client writes is the same in `u` as in `s`. -/
structure ClientWrites (s u : State) : Prop where
  cfg : u.cfg = s.cfg := by rfl
  line : u.line = s.line := by rfl
  ctx : u.ctx = s.ctx := by rfl
  cmds : u.inputs.cmds = s.inputs.cmds := by rfl
  wireIn : u.inputs.wireIn = s.inputs.wireIn := by rfl
  schedule : u.inputs.schedule = s.inputs.schedule := by rfl
  wireOut : u.outputs.wireOut = s.outputs.wireOut := by rfl
  rsp : u.outputs.rsp = s.outputs.rsp := by rfl
  faults : u.faults = s.faults := by rfl

/-- `LA_POLL` removes from RX and writes the client's buffers, index and mark; of the buffers, but for the handoff, the byte of the
line buffer that the index names alone (R162, R163). -/
structure PollWrites (s u : State) : Prop extends ClientWrites s u where
  rx : RemoveKeeps s.rx u.rx := by exact { }
  tx : u.tx = s.tx := by rfl
  xport : u.xport = s.xport := by rfl
  extCalls : u.outputs.extCalls = s.outputs.extCalls := by rfl
  sensitivity : u.client.sensitivity = s.client.sensitivity := by rfl
  buffers : s.main.phase ≠ .handoff → u.client.cmdBuf = s.client.cmdBuf ∧
    ∀ k : Fin 8, k.val ≠ s.client.widx → u.client.lineBuf[k.val] = s.client.lineBuf[k.val] := by
      exact fun _ => ⟨rfl, fun _ _ => rfl⟩

/-- `LA_DISPATCH` inserts into TX, arms, calls a collaborator and writes the client's mark and `sensitivity` (R167, R169, R170). -/
structure DispatchWrites (s u : State) : Prop extends ClientWrites s u where
  rx : u.rx = s.rx := by rfl
  tx : InsertKeeps s.tx u.tx := by exact { }
  xport : u.xport = { s.xport with txIe := u.xport.txIe } := by rfl
  lineBuf : u.client.lineBuf = s.client.lineBuf := by rfl
  cmdBuf : u.client.cmdBuf = s.client.cmdBuf := by rfl
  widx : u.client.widx = s.client.widx := by rfl

section
variable {i : Instr} {s t : State}

theorem RemoveWrites.pollWrites (h : RemoveWrites .rx s t) : ∃ u, PollWrites s u ∧ StoresNothing u t := by
  obtain ⟨v, d, hs, hv⟩ := h
  exact ⟨s.stored .rx v d, { rx := hv }, hs⟩

theorem StoresNothing.pollWrites (h : StoresNothing s t) : ∃ u, PollWrites s u ∧ StoresNothing u t := ⟨s, { }, h⟩

theorem StoresNothing.dispatchWrites (h : StoresNothing s t) : ∃ u, DispatchWrites s u ∧ StoresNothing u t := ⟨s, { }, h⟩

/-- The store writes the byte that the index names, or is refused (R163, R164). -/
theorem storeByte_writes (s : State) : ∃ u, PollWrites s u ∧ StoresNothing u (storeByte s) := by
  unfold storeByte
  split
  · exact (storesNothing_raise (by decide) s).pollWrites
  · exact ⟨{ s with client.lineBuf := s.client.lineBuf.setIfInBounds s.client.widx s.main.byte },
      { buffers := fun _ => ⟨rfl, fun k hk => Vector.getElem_setIfInBounds_ne k.isLt hk.symm⟩ }, storesNothing_goto _ _⟩

theorem exec_laPoll_writes (h : exec .laPoll s = .next t) : ∃ u, PollWrites s u ∧ StoresNothing u t := by
  rcases storesNothing_or_micro rfl h with hs | ⟨-, hmicro⟩
  · exact hs.pollWrites
  · cases hph : s.main.phase with
    | p1 =>
      simp only [microLaPoll, hph, atomicCount_eq] at hmicro
      cases hmicro
      split
      · exact (storesNothing_ret _ s).pollWrites
      · exact (storesNothing_goto _ s).pollWrites
    | x1 => simp only [microLaPoll, hph] at hmicro; exact (stepX1_removeWrites hmicro).pollWrites
    | x2 => simp only [microLaPoll, hph] at hmicro; exact (stepX2_removeWrites hmicro).pollWrites
    | x3 => simp only [microLaPoll, hph] at hmicro; exact (stepX3_removeWrites (storesNothing_goto _) hmicro).pollWrites
    | handoff =>
      simp only [microLaPoll, hph] at hmicro
      cases hmicro
      exact ⟨_, { buffers := fun hne => absurd hph hne }, storesNothing_goto _ _⟩
    | handoffIdx | handoffReady | storeIdx =>
      simp only [microLaPoll, hph] at hmicro
      cases hmicro
      exact ⟨_, { }, storesNothing_goto _ _⟩
    | store =>
      simp only [microLaPoll, hph] at hmicro
      cases hmicro
      exact storeByte_writes s
    | _ => simp only [microLaPoll, hph] at hmicro; cases hmicro

/-- The tests write nothing; the start of a query draws a text and calls a collaborator (R169, R170). -/
theorem routeCommand_writes (s : State) : ∃ u, DispatchWrites s u ∧ StoresNothing u (routeCommand s) := by
  unfold routeCommand query
  split
  · exact (storesNothing_ret _ s).dispatchWrites
  · split
    · split
      · exact ⟨s, { }, { }⟩
      · split
        · exact ⟨{ s with
            inputs.draws := s.inputs.draws + 1
            outputs.extCalls := s.outputs.extCalls ++ [.query s.client.cmdBuf[0]] }, { }, { }⟩
        · exact (storesNothing_goto _ s).dispatchWrites
    · split
      · exact (storesNothing_goto _ s).dispatchWrites
      · exact (storesNothing_goto _ s).dispatchWrites

theorem exec_laDispatch_writes (h : exec .laDispatch s = .next t) : ∃ u, DispatchWrites s u ∧ StoresNothing u t := by
  rcases storesNothing_or_micro rfl h with hs | ⟨-, hmicro⟩
  · exact hs.dispatchWrites
  · unfold microLaDispatch at hmicro
    split at hmicro
    · cases hmicro; exact routeCommand_writes s
    · simp only [stepW1, atomicCount_eq] at hmicro
      split at hmicro
      · cases hmicro; exact (StoresNothing.refl s).dispatchWrites
      · cases hmicro; exact (storesNothing_goto _ s).dispatchWrites
    · split at hmicro
      · obtain ⟨-, rfl⟩ := stepI1_inv hmicro
        exact ⟨_, { tx := { slots := fun k hk => Mem.read_write_ne _ _ hk } }, storesNothing_goto _ _⟩
      · cases hmicro
    · cases hmicro; exact ⟨_, { }, storesNothing_goto _ _⟩
    · rw [stepI3, atomically_countUp] at hmicro; cases hmicro; exact ⟨_, { }, storesNothing_goto _ _⟩
    · cases hmicro; exact ⟨{ s with xport.txIe := true }, { }, { }⟩
    · obtain ⟨d, hd⟩ := parsedValue_inv s
      obtain ⟨x, calls, ha⟩ := assignKey_inv s.client.cmdBuf[0] (parsedValue s).1 (parsedValue s).2
      cases hmicro
      rw [ha, hd]
      exact ⟨_, { }, storesNothing_goto _ _⟩
    · cases hmicro; exact ⟨_, { }, storesNothing_ret _ _⟩
    · cases hmicro

/-- The two commands as one. -/
theorem exec_clientCommand_writes (hi : i = .laPoll ∨ i = .laDispatch) (h : exec i s = .next t) :
    ∃ u, ClientWrites s u ∧ StoresNothing u t ∧ (i = .laPoll → PollWrites s u) ∧ (i = .laDispatch → DispatchWrites s u) := by
  rcases hi with rfl | rfl
  · obtain ⟨u, hu, hs⟩ := exec_laPoll_writes h
    exact ⟨u, hu.toClientWrites, hs, fun _ => hu, nofun⟩
  · obtain ⟨u, hu, hs⟩ := exec_laDispatch_writes h
    exact ⟨u, hu.toClientWrites, hs, nofun, fun _ => hu⟩

end

/-- Settles O59: what the two commands share, then each command's own writes. -/
theorem clientCommandsFrame : Obligations.ClientCommandsFrame := by
  intro i s t hi h
  obtain ⟨u, hu, hs, hpoll, hdispatch⟩ := exec_clientCommand_writes hi h
  refine ⟨hs.cfg.trans hu.cfg, hs.line.trans hu.line, hs.ctx.trans hu.ctx, by rw [hs.inputs, hu.cmds],
    by rw [hs.inputs, hu.wireIn], by rw [hs.inputs, hu.schedule], hs.wireOut.trans hu.wireOut,
    by simpa [FaultsMayGrow, hu.faults] using hs.faults, by simpa [ResponsesMayGrow, hu.rsp] using hs.rsp,
    fun hi => ?_, fun hi => ?_⟩
  · have hp := hpoll hi
    refine ⟨hs.xport.trans hp.xport, sameRing_of_eq (hs.tx.trans hp.tx), ?_, ?_, fun k => ?_, ?_, hs.extCalls.trans hp.extCalls,
      fun hph => ?_⟩
    · rw [hs.rx, hp.rx.inp]
    · rw [hs.rx, hp.rx.initialized]
    · exact congrArg (Mem.read · k) ((congrArg Ring.storage hs.rx).trans hp.rx.storage)
    · rw [hs.client, hp.sensitivity]
    · rw [hs.client]; exact hp.buffers hph
  · have hd := hdispatch hi
    refine ⟨sameRing_of_eq (hs.rx.trans hd.rx), ?_, ?_, ?_, fun k hk => ?_, ?_, ?_, ?_⟩
    · rw [hs.tx, hd.tx.out]
    · rw [hs.tx, hd.tx.initialized]
    · rw [hs.xport]; exact hd.xport
    · exact (congrArg (fun q : Ring => Mem.read q.storage k) hs.tx).trans (hd.tx.slots k hk)
    · rw [hs.client, hd.lineBuf]
    · rw [hs.client, hd.cmdBuf]
    · rw [hs.client, hd.widx]

end Sys2Proof.Machine
end

section
/-! The integer of a command content (R168, R175), and that the decimal spelling of a number parses to it (R126). -/

namespace Sys2Proof.Machine

section
variable {lead p sign ds : List Byte}

/-! The payload (R168). -/

theorem afterEquals_of_none (h : ∀ b ∈ lead, b ≠ 0x3D) : afterEquals lead = none := by
  induction lead with
  | nil => rfl
  | cons b lead ih =>
    rw [List.forall_mem_cons] at h
    rw [afterEquals, if_neg h.1, ih h.2]

/-- The payload is what follows the first equals sign. -/
theorem afterEquals_of_first (h : ∀ b ∈ lead, b ≠ 0x3D) : afterEquals (lead ++ 0x3D :: p) = some p := by
  induction lead with
  | nil => rfl
  | cons b lead ih =>
    rw [List.forall_mem_cons] at h
    rw [List.cons_append, afterEquals, if_neg h.1, ih h.2]

theorem parseInt_of_absent (h : ∀ b ∈ lead, b ≠ 0x3D) : parseInt lead = some 0 := by
  simp only [parseInt, afterEquals_of_none h]

theorem parseInt_of_malformed (h : ∀ b ∈ lead, b ≠ 0x3D) (hp : signedText p = none) :
    parseInt (lead ++ 0x3D :: p) = some 0 := by
  simp only [parseInt, afterEquals_of_first h, hp]

theorem parseInt_of_value {v : Int} (h : ∀ b ∈ lead, b ≠ 0x3D) (hp : signedText p = some v) :
    parseInt (lead ++ 0x3D :: p) = if -32768 ≤ v ∧ v ≤ 32767 then some (BitVec.ofInt 16 v) else none := by
  simp only [parseInt, afterEquals_of_first h, hp]

/-! Digits, and a sign before them. -/

theorem digitsValue_eq_foldl (n : Nat) : digitsValue n ds = ds.foldl (fun n d => 10 * n + (d.toNat - 0x30)) n := by
  induction ds generalizing n with
  | nil => rfl
  | cons d ds ih => exact ih _

theorem unsignedText_guard_iff : (ds ≠ [] ∧ ds.all isDigit = true) ↔ IsDigits ds := by simp [isDigit]

theorem unsignedText_of_isDigits (h : IsDigits ds) : unsignedText ds = some (decimalValue ds) := by
  rw [unsignedText, if_pos (unsignedText_guard_iff.mpr h), digitsValue_eq_foldl, decimalValue]

theorem unsignedText_of_not_isDigits (h : ¬ IsDigits ds) : unsignedText ds = none := by
  rw [unsignedText, if_neg (unsignedText_guard_iff.not.mpr h)]

/-- The value of a signed text, by its sign (R168). -/
def signedValue (sign ds : List Byte) : Int := if sign = [0x2D] then -(decimalValue ds : Int) else (decimalValue ds : Int)

/-- Digits begin with no sign. -/
theorem IsDigits.head_not_sign {d : Byte} (h : IsDigits (d :: ds)) : d ≠ 0x2B ∧ d ≠ 0x2D := by
  have hd := (h.2 d List.mem_cons_self).1
  constructor <;> rintro rfl <;> exact absurd hd (by decide)

theorem signedText_of_digits (hs : IsSign sign) (hd : IsDigits ds) : signedText (sign ++ ds) = some (signedValue sign ds) := by
  rcases hs with rfl | rfl | rfl
  · obtain ⟨d, rest, rfl⟩ := List.exists_cons_of_ne_nil hd.1
    obtain ⟨hplus, hminus⟩ := hd.head_not_sign
    rw [List.nil_append, signedText, if_neg hplus, if_neg hminus, unsignedText_of_isDigits hd]; rfl
  · rw [List.singleton_append, signedText, if_pos rfl, unsignedText_of_isDigits hd]; rfl
  · rw [List.singleton_append, signedText, if_neg (by decide), if_pos rfl, unsignedText_of_isDigits hd]; rfl

/-- What is no sign and digits has no value: each branch of the reader looks at one way to split off a sign (R168). -/
theorem signedText_of_no_digits (h : ∀ sign ds, p = sign ++ ds → IsSign sign → ¬ IsDigits ds) : signedText p = none := by
  cases p with
  | nil => rfl
  | cons b p =>
    rw [signedText]
    split_ifs with hplus hminus
    · rw [unsignedText_of_not_isDigits (h [b] p rfl (.inr (.inl (by rw [hplus]))))]; rfl
    · rw [unsignedText_of_not_isDigits (h [b] p rfl (.inr (.inr (by rw [hminus]))))]; rfl
    · rw [unsignedText_of_not_isDigits (h [] (b :: p) rfl (.inl rfl))]; rfl

/-- The shortest spelling of a number is a sign and digits with that value (R126). -/
theorem dec_spells (v : Word) : ∃ sign ds, dec v = sign ++ ds ∧ IsSign sign ∧ IsDigits ds ∧ signedValue sign ds = v.toInt := by
  obtain ⟨hdigits, hvalue⟩ := decDigits_spells (natAbs_toInt_lt v) (by decide)
  unfold dec
  split
  next hneg =>
    refine ⟨[0x2D], decDigits 5 v.toInt.natAbs, rfl, .inr (.inr rfl), hdigits, ?_⟩
    rw [signedValue, if_pos rfl, hvalue]; omega
  next hpos =>
    refine ⟨[], decDigits 5 v.toInt.natAbs, rfl, .inl rfl, hdigits, ?_⟩
    rw [signedValue, if_neg (List.cons_ne_nil _ _).symm, hvalue]; omega

theorem parseInt_dec (v : Word) : parseInt (0x3D :: dec v) = some v := by
  obtain ⟨sign, ds, hspell, hs, hd, hvalue⟩ := dec_spells v
  have hlt := BitVec.toInt_lt (x := v)
  have hle := BitVec.le_toInt (x := v)
  have hparse := parseInt_of_value (lead := []) nofun (signedText_of_digits hs hd)
  rw [List.nil_append, ← hspell, hvalue, if_pos (by omega), BitVec.ofInt_toInt] at hparse
  exact hparse

/-- The content ends at the first zero of the buffer, or with it (R175). -/
theorem content_of_split {buf : Vector Byte 8} {bs rest : List Byte} (hbuf : buf.toList = bs ++ rest) (hbs : ∀ b ∈ bs, b ≠ 0)
    (hrest : rest = [] ∨ rest.head? = some 0) : content buf = bs := by
  have hstop : rest.takeWhile (· ≠ 0) = [] := by
    rcases hrest with rfl | hzero
    · rfl
    · obtain ⟨rest, rfl⟩ := List.head?_eq_some_iff.mp hzero
      rfl
  rw [content, hbuf, List.takeWhile_append_of_pos (by simpa using hbs), hstop, List.append_nil]

end

/-- Settles O50: a content without an equals sign, one with a number after the first, one with anything else there, the spelling
of a number, and where the content ends. -/
theorem parseOfDecimalSpellingIsIdentity : Obligations.ParseOfDecimalSpellingIsIdentity :=
  ⟨fun _ => parseInt_of_absent, fun _ _ _ h hs hd => parseInt_of_value h (signedText_of_digits hs hd),
    fun _ _ h hp => parseInt_of_malformed h (signedText_of_no_digits hp), parseInt_dec, fun _ _ _ => content_of_split⟩

end Sys2Proof.Machine
end

section
/-! Progress: in a state that meets the invariant every agent's step answers a next state (R63, R183, R193; logs 4 and 17). -/

namespace Sys2Proof.Machine

section
variable {r : RingId} {b sel : Byte} {i : Instr} {s : State}

/-- X1 answers a next state whether or not the slot was ever written (log 7). -/
theorem stepX1_next (hout : (s.ring r).out < s.cap r) : ∃ t, stepX1 r s = .next t := by
  cases hslot : s.slot r (s.ring r).out with
  | some b => exact ⟨_, stepX1_ok hout hslot⟩
  | none => exact ⟨_, stepX1_unwritten hout hslot⟩

/-! The commands in progress: at each phase of its own a command has a micro-step, which needs a cursor only to name a slot. -/

theorem exec_rbInit_next (hop : s.main.op = some (.rbInit r)) (hp : Instr.hasPhase (.rbInit r) s.main.phase = true) :
    ∃ t, exec (.rbInit r) s = .next t := by
  have hph : s.main.phase = .initIn r ∨ s.main.phase = .initOut r ∨ s.main.phase = .initCount r ∨ s.main.phase = .initMark r := by
    simpa [Instr.hasPhase, or_assoc] using hp
  rcases hph with hph | hph | hph | hph
  · exact ⟨_, exec_rbInit_initIn ⟨hop, hph⟩⟩
  · exact ⟨_, exec_rbInit_initOut ⟨hop, hph⟩⟩
  · exact ⟨_, exec_rbInit_initCount ⟨hop, hph⟩⟩
  · exact ⟨_, exec_rbInit_initMark ⟨hop, hph⟩⟩

theorem exec_rbInsert_next (hop : s.main.op = some (.rbInsert r b)) (hp : Instr.hasPhase (.rbInsert r b) s.main.phase = true)
    (hin : (s.ring r).inp < s.cap r) : ∃ t, exec (.rbInsert r b) s = .next t := by
  cases hph : s.main.phase with
  | i0 => exact ⟨_, exec_rbInsert_i0 ⟨hop, hph⟩⟩
  | i1 => exact ⟨_, exec_rbInsert_i1 ⟨hop, hph⟩ hin⟩
  | i2 => exact ⟨_, exec_rbInsert_i2 ⟨hop, hph⟩⟩
  | i3 => exact ⟨_, exec_rbInsert_i3 ⟨hop, hph⟩⟩
  | _ => simp [Instr.hasPhase, hph] at hp

theorem exec_rbRemove_next (hop : s.main.op = some (.rbRemove r)) (hp : Instr.hasPhase (.rbRemove r) s.main.phase = true)
    (hout : (s.ring r).out < s.cap r) : ∃ t, exec (.rbRemove r) s = .next t := by
  cases hph : s.main.phase with
  | x0 => exact ⟨_, exec_rbRemove_x0 ⟨hop, hph⟩⟩
  | x1 => rw [exec_x1 (.inl rfl) ⟨hop, hph⟩]; exact stepX1_next hout
  | x2 => exact ⟨_, exec_x2 (.inl rfl) ⟨hop, hph⟩⟩
  | x3 => exact ⟨_, exec_rbRemove_x3 ⟨hop, hph⟩⟩
  | _ => simp [Instr.hasPhase, hph] at hp

theorem exec_rbFlush_next (hop : s.main.op = some (.rbFlush r)) (hp : Instr.hasPhase (.rbFlush r) s.main.phase = true)
    (hout : (s.ring r).out < s.cap r) : ∃ t, exec (.rbFlush r) s = .next t := by
  cases hph : s.main.phase with
  | f1 => exact ⟨_, exec_rbFlush_f1 ⟨hop, hph⟩⟩
  | x1 => rw [exec_x1 (.inr rfl) ⟨hop, hph⟩]; exact stepX1_next hout
  | x2 => exact ⟨_, exec_x2 (.inr rfl) ⟨hop, hph⟩⟩
  | x3 => exact ⟨_, exec_rbFlush_x3 ⟨hop, hph⟩⟩
  | _ => simp [Instr.hasPhase, hph] at hp

theorem exec_stInit_next (hop : s.main.op = some (.stInit sel)) (hp : Instr.hasPhase (.stInit sel) s.main.phase = true) :
    ∃ t, exec (.stInit sel) s = .next t := by
  cases hph : s.main.phase with
  | cfgBaud => exact ⟨_, exec_stInit_cfgBaud ⟨hop, hph⟩⟩
  | cfgLineOn => exact ⟨_, exec_stInit_cfgLineOn ⟨hop, hph⟩⟩
  | cfgRxPending => exact ⟨_, exec_stInit_cfgRxPending ⟨hop, hph⟩⟩
  | cfgTxReady => exact ⟨_, exec_stInit_cfgTxReady ⟨hop, hph⟩⟩
  | initIn q => exact ⟨_, exec_stInit_initIn ⟨hop, hph⟩⟩
  | initOut q => exact ⟨_, exec_stInit_initOut ⟨hop, hph⟩⟩
  | initCount q => exact ⟨_, exec_stInit_initCount ⟨hop, hph⟩⟩
  | initMark q => exact ⟨_, exec_stInit_initMark ⟨hop, hph⟩⟩
  | cfgRxStatus => exact ⟨_, exec_stInit_cfgRxStatus ⟨hop, hph⟩⟩
  | cfgTxStatus => exact ⟨_, exec_stInit_cfgTxStatus ⟨hop, hph⟩⟩
  | cfgTxIe => exact ⟨_, exec_stInit_cfgTxIe ⟨hop, hph⟩⟩
  | cfgRxIe => exact ⟨_, exec_stInit_cfgRxIe ⟨hop, hph⟩⟩
  | cfgMark => exact ⟨_, exec_stInit_cfgMark ⟨hop, hph⟩⟩
  | _ => simp [Instr.hasPhase, hph] at hp

theorem exec_stWriteByte_next (hop : s.main.op = some (.stWriteByte b))
    (hp : Instr.hasPhase (.stWriteByte b) s.main.phase = true) (hin : s.tx.inp < s.cap .tx) :
    ∃ t, exec (.stWriteByte b) s = .next t := by
  cases hph : s.main.phase with
  | w1 => exact ⟨_, exec_stWriteByte_w1 ⟨hop, hph⟩⟩
  | i1 => exact ⟨_, exec_stWriteByte_i1 ⟨hop, hph⟩ hin⟩
  | i2 => exact ⟨_, exec_stWriteByte_i2 ⟨hop, hph⟩⟩
  | i3 => exact ⟨_, exec_stWriteByte_i3 ⟨hop, hph⟩⟩
  | w2 => exact ⟨_, exec_stWriteByte_w2 ⟨hop, hph⟩⟩
  | _ => simp [Instr.hasPhase, hph] at hp

theorem exec_stReadByte_next (hop : s.main.op = some .stReadByte) (hp : Instr.hasPhase .stReadByte s.main.phase = true)
    (hout : s.rx.out < s.cap .rx) : ∃ t, exec .stReadByte s = .next t := by
  cases hph : s.main.phase with
  | g1 => exact ⟨_, exec_stReadByte_g1 ⟨hop, hph⟩⟩
  | g2 => exact ⟨_, exec_stReadByte_g2 ⟨hop, hph⟩⟩
  | x1 => rw [exec_stReadByte_x1 ⟨hop, hph⟩]; exact stepX1_next hout
  | x2 => exact ⟨_, exec_stReadByte_x2 ⟨hop, hph⟩⟩
  | x3 => exact ⟨_, exec_stReadByte_x3 ⟨hop, hph⟩⟩
  | _ => simp [Instr.hasPhase, hph] at hp

theorem exec_stWaitTc_next (hop : s.main.op = some .stWaitTc) (hp : Instr.hasPhase .stWaitTc s.main.phase = true) :
    ∃ t, exec .stWaitTc s = .next t := by
  have hph : s.main.phase = .t1 := by simpa [Instr.hasPhase] using hp
  obtain ⟨hwait, hend⟩ := stWaitTcWaitsWhileTransmitting s ⟨hop, hph⟩
  by_cases htx : s.xport.txStatus = .transmitting
  · exact ⟨_, hwait htx⟩
  · exact ⟨_, hend htx⟩

theorem exec_laPoll_next (hop : s.main.op = some .laPoll) (hp : Instr.hasPhase .laPoll s.main.phase = true)
    (hout : s.rx.out < s.cap .rx) : ∃ t, exec .laPoll s = .next t := by
  cases hph : s.main.phase with
  | p1 => exact ⟨_, exec_laPoll_p1 ⟨hop, hph⟩⟩
  | x1 => rw [exec_laPoll_x1 ⟨hop, hph⟩]; exact stepX1_next hout
  | x2 => exact ⟨_, exec_laPoll_x2 ⟨hop, hph⟩⟩
  | x3 => exact ⟨_, exec_laPoll_x3 ⟨hop, hph⟩⟩
  | handoff => exact ⟨_, exec_laPoll_handoff ⟨hop, hph⟩⟩
  | handoffIdx => exact ⟨_, exec_laPoll_handoffIdx ⟨hop, hph⟩⟩
  | handoffReady => exact ⟨_, exec_laPoll_handoffReady ⟨hop, hph⟩⟩
  | store => exact ⟨_, exec_laPoll_store ⟨hop, hph⟩⟩
  | storeIdx => exact ⟨_, exec_laPoll_storeIdx ⟨hop, hph⟩⟩
  | _ => simp [Instr.hasPhase, hph] at hp

/-- The store of a response's byte needs that one is left to send (R169). -/
theorem exec_laDispatch_next (hop : s.main.op = some .laDispatch) (hp : Instr.hasPhase .laDispatch s.main.phase = true)
    (hin : s.tx.inp < s.cap .tx) (hready : Ready .laDispatch s) : ∃ t, exec .laDispatch s = .next t := by
  have hsend := ready_laDispatch_iff.mp hready
  cases hph : s.main.phase with
  | route => exact ⟨_, exec_laDispatch_route ⟨hop, hph⟩⟩
  | assign => exact ⟨_, exec_laDispatch_assign ⟨hop, hph⟩⟩
  | done => exact ⟨_, exec_laDispatch_done ⟨hop, hph⟩⟩
  | w1 => exact ⟨_, exec_laDispatch_w1 ⟨hop, hph⟩⟩
  | i1 =>
    obtain ⟨b, bs, hbytes⟩ := List.exists_cons_of_ne_nil (hsend (by simp [hph]) (by simp [hph]) (by simp [hph]))
    exact ⟨_, exec_laDispatch_i1 ⟨hop, hph⟩ hin hbytes⟩
  | i2 => exact ⟨_, exec_laDispatch_i2 ⟨hop, hph⟩⟩
  | i3 => exact ⟨_, exec_laDispatch_i3 ⟨hop, hph⟩⟩
  | w2 =>
    obtain ⟨b, bs, hbytes⟩ := List.exists_cons_of_ne_nil (hsend (by simp [hph]) (by simp [hph]) (by simp [hph]))
    exact ⟨_, exec_laDispatch_w2 ⟨hop, hph⟩ hbytes⟩
  | _ => simp [Instr.hasPhase, hph] at hp

/-! The agents. -/

/-- The invariant gives the command in progress one of its own phases, and every cursor a slot. -/
theorem Inv.exec_next (h : Inv s) (hop : s.main.op = some i) : ∃ t, Machine.exec i s = .next t := by
  obtain ⟨hi, hp, -, hready⟩ := h.running hop
  have hin (r : RingId) := (h.ringOk r).inpLt
  have hout (r : RingId) := (h.ringOk r).outLt
  cases i with
  | rbInit r => exact exec_rbInit_next hop hp
  | rbInsert r b => exact exec_rbInsert_next hop hp (hin r)
  | rbRemove r => exact exec_rbRemove_next hop hp (hout r)
  | rbFlush r => exact exec_rbFlush_next hop hp (hout r)
  | rbCount r | rbIsempty r | rbIsfull r | sysGie imm | stAvail => exact ⟨_, runCommand_running hop hp⟩
  | stInit sel => exact exec_stInit_next hop hp
  | stWriteByte b => exact exec_stWriteByte_next hop hp (hin .tx)
  | stReadByte => exact exec_stReadByte_next hop hp (hout .rx)
  | stWaitTc => exact exec_stWaitTc_next hop hp
  | laPoll => exact exec_laPoll_next hop hp (hout .rx)
  | laDispatch => exact exec_laDispatch_next hop hp (hin .tx) hready
  | reservedD x => cases hp
  | evRx => cases hi
  | evTx => cases hi

/-- MAIN takes a micro-step, waits, or answers the word at the command port, a fault included (log 4). -/
theorem Inv.mainStep_next (h : Inv s) : ∃ t, Machine.mainStep s = .next t := by
  obtain ⟨hirq, -⟩ := h.ctxOk
  cases hop : s.main.op with
  | some i => rw [mainStep_of_running hirq hop]; exact h.exec_next hop
  | none =>
    cases hcmds : s.inputs.cmds with
    | nil => exact ⟨s, mainStep_of_no_command hop hcmds⟩
    | cons w ws =>
      cases hdec : decodeCommand w with
      | ok i => exact ⟨_, (mainStep_of_decoded hirq hop hcmds hdec).trans (exec_idle (isCommand_of_decodeCommand hdec) hop)⟩
      | error e => exact ⟨_, mainStep_of_not_decoded hirq hop hcmds hdec⟩

theorem Inv.agentStep_next (h : Inv s) (a : Agent) : ∃ t, agentStep a s = .next t := by
  cases a with
  | main => exact h.mainStep_next
  | irq v =>
    cases v with
    | rx => exact exec_evRx_next (h.ringOk .rx).inpLt
    | tx => exact exec_evTx_next (h.ringOk .tx).outLt
  | lineRx => exact ⟨_, rfl⟩
  | lineTx => exact ⟨_, rfl⟩

end

/-- Settles O14: the turn taken touches the inputs of the run alone, and no agent's step stops under the invariant. -/
theorem invariantStatesNeverStop : Obligations.InvariantStatesNeverStop := by
  intro s h
  obtain ⟨sch, d, hu⟩ := nextAgent_inputs s
  rw [step, machineStep, hu]
  exact (h.of_inputs _).agentStep_next _

end Sys2Proof.Machine
end

section
/-! A halted machine (R42, R184), and a wait that nothing ends: `write_byte` on a full ring with interrupts masked (R201, R220). -/

namespace Sys2Proof.Machine

/-- Settles O30: the first check of R86 is `halted`, whatever the command, and its fault writes the record and the response alone. -/
theorem haltedAnswersEveryCommand : Obligations.HaltedAnswersEveryCommand := by
  intro i s hi hmain hh
  rw [exec_of_failed_check hi (congrArg MainSeq.op hmain) (precheck_of_halted hh), raise_of_idle hmain (by decide), hh]
  rfl

section
variable {b : Byte} {v : EventVector} {s t : State}

/-- The line device does not touch the interrupt mask (R145, R147). -/
theorem arrive_ctx : (arrive s).ctx = s.ctx := by
  unfold arrive
  split
  · rfl
  · split
    · rfl
    · split <;> rfl

theorem take_ctx : (take s).ctx = s.ctx := by
  unfold take; split <;> rfl

/-- MAIN reads a full ring at W1 and stays there, whether or not a handler runs (R124). -/
theorem mainStep_of_full_w1 (h : s.runs (.stWriteByte b) .w1) (hfull : s.tx.count.toNat = s.cap .tx) :
    mainStep s = .next s := by
  cases hirq : s.ctx.inIrq with
  | true => simp [mainStep, hirq]
  | false => rw [mainStep_of_running hirq h.1, exec_stWriteByte_w1 h, if_pos hfull]

/-- With interrupts masked no handler starts (R140). -/
theorem agentStep_irq_of_masked (hgie : s.ctx.gie = false) : agentStep (.irq v) s = .next s := by
  have hno : s.canStart v ≠ true := by simp [State.canStart, hgie]
  cases v with
  | rx => exact runHandler_of_not_canStart hno
  | tx => exact runHandler_of_not_canStart hno

/-- MAIN waits for room, which the masked handler alone could make: a step of the line device is all that can change the state,
and it touches neither MAIN, nor a ring, nor the mask. -/
theorem agentStep_of_masked_wait {a : Agent} (h : s.runs (.stWriteByte b) .w1) (hfull : s.tx.count.toNat = s.cap .tx)
    (hgie : s.ctx.gie = false) (hstep : agentStep a s = .next t) :
    t.main = s.main ∧ t.tx = s.tx ∧ t.cfg = s.cfg ∧ t.ctx = s.ctx ∧ t.outputs.rsp = s.outputs.rsp := by
  cases a with
  | main =>
    cases (mainStep_of_full_w1 h hfull).symm.trans hstep
    exact ⟨rfl, rfl, rfl, rfl, rfl⟩
  | irq v =>
    cases (agentStep_irq_of_masked hgie).symm.trans hstep
    exact ⟨rfl, rfl, rfl, rfl, rfl⟩
  | lineRx =>
    cases hstep
    obtain ⟨o, hring⟩ := arrive_otherStep s
    exact ⟨o.main, hring .tx, o.cfg, arrive_ctx, o.rsp⟩
  | lineTx =>
    cases hstep
    obtain ⟨o, hring⟩ := take_otherStep s
    exact ⟨o.main, hring .tx, o.cfg, take_ctx, o.rsp⟩

end

/-- Settles O35: the turn taken touches the inputs of the run alone, and whichever agent it is leaves the wait as it is. -/
theorem maskedWriteNeverLeavesItsWait : Obligations.MaskedWriteNeverLeavesItsWait := by
  intro b s t h hfull hgie hstep
  obtain ⟨sch, d, hu⟩ := nextAgent_inputs s
  rw [step, machineStep, hu] at hstep
  obtain ⟨hmain, htx, hcfg, hctx, hrsp⟩ :=
    agentStep_of_masked_wait (s := { s with inputs.schedule := sch, inputs.draws := d }) h hfull hgie hstep
  exact ⟨by rwa [State.runs, hmain], htx, State.cap_congr hcfg .tx, by rwa [hctx], hrsp⟩

end Sys2Proof.Machine
end

section
/-! Both events requested: what each handler leaves as a function of the state, and that the two commute (R189, log 20). -/

namespace Sys2Proof.Machine

/-- The state `EV_RX` leaves where it starts: the byte is dropped at a full ring and stored otherwise (R142). -/
def State.evRxDone (s : State) : State :=
  { s with
    rx := if s.rx.count.toNat = s.cap .rx then s.rx else s.rx.push (s.cap .rx) s.line.rxData
    xport.rxStatus := if s.rx.count.toNat = s.cap .rx then .bufferFull else .dataPending
    xport.rxStatusSet := true
    line.rxPending := false
    ctx.gie := true
    ctx.inIrq := false }

/-- The byte that a read of TX's oldest slot gives, a free one if the slot was never written, and the draw counter after it (R104 X1,
log 7). -/
def State.txOldest (s : State) : Byte × Nat :=
  match s.slot .tx s.tx.out with
  | some b => (b, s.inputs.draws)
  | none => (Config.freeByte s.inputs.draws, s.inputs.draws + 1)

/-- The state `EV_TX` leaves where it starts: it disarms on an empty ring and sends the oldest byte otherwise (R144). -/
def State.evTxDone (s : State) : State :=
  { s with
    tx := if s.tx.count = 0 then s.tx else s.tx.pop (s.cap .tx)
    xport.txIe := if s.tx.count = 0 then false else s.xport.txIe
    xport.txStatus := if s.tx.count = 0 then .idleEmpty else .transmitting
    xport.txStatusSet := true
    line.txData := if s.tx.count = 0 then s.line.txData else s.txOldest.1
    line.txReady := if s.tx.count = 0 then s.line.txReady else false
    inputs.draws := if s.tx.count = 0 then s.inputs.draws else s.txOldest.2
    ctx.gie := true
    ctx.inIrq := false }

section
variable {v : EventVector} {body : State → Except Fault State} {s t : State}

/-- A handler that can start does: what it leaves is its body's between entry and return (R140). -/
theorem runHandler_started (hstart : s.canStart v = true) (h : runHandler v body s = .next t) :
    ∃ u, body (irqEntry s) = .ok u ∧ t = irqReturn u := by
  rcases runHandler_inv h with ⟨hno, -⟩ | ⟨-, hran⟩
  · exact absurd hstart (by simp [hno])
  · exact hran

theorem exec_evRx_done (hstart : s.canStart .rx = true) (h : exec .evRx s = .next t) : t = s.evRxDone := by
  obtain ⟨u, hu, rfl⟩ := runHandler_started hstart h
  rcases evRxBody_inv hu with ⟨hfull, rfl⟩ | ⟨hroom, -, rfl⟩
  · simp only [State.evRxDone, if_pos (show s.rx.count.toNat = s.cap .rx from hfull)]; rfl
  · simp only [State.evRxDone, if_neg (show s.rx.count.toNat ≠ s.cap .rx from hroom)]; rfl

theorem exec_evTx_done (hstart : s.canStart .tx = true) (h : exec .evTx s = .next t) : t = s.evTxDone := by
  obtain ⟨u, hu, rfl⟩ := runHandler_started hstart h
  rcases evTxBody_inv hu with ⟨hempty, rfl⟩ | ⟨hne, -, b, d, rfl, hread⟩
  · simp only [State.evTxDone, if_pos (show s.tx.count = 0 from hempty)]; rfl
  · have hne : s.tx.count ≠ 0 := hne
    have holdest : s.txOldest = (b, d) := by
      rcases hread with ⟨hb, rfl⟩ | ⟨hb, rfl, rfl⟩
      · rw [State.txOldest, show s.slot .tx s.tx.out = some b from hb]; rfl
      · rw [State.txOldest, show s.slot .tx s.tx.out = none from hb]; rfl
    simp only [State.evTxDone, if_neg hne, holdest]; rfl

/-- The receive event reads and writes RX, `rx_status` and `rx_pending`, the transmit-ready event TX, `tx_status`, `tx_ie` and the
transmitter: neither touches what the other reads (R189). -/
theorem evRxDone_evTxDone (s : State) : s.evRxDone.evTxDone = s.evTxDone.evRxDone := rfl

/-- A sent byte occupies the transmitter, and an empty ring disarms (R144). -/
theorem evTxDone_withdraws_request (s : State) : s.evTxDone.xport.txIe = false ∨ s.evTxDone.line.txReady = false := by
  by_cases hempty : s.tx.count = 0
  · exact .inl (if_pos hempty)
  · exact .inr (if_neg hempty)

end

/-- Settles O41: with both events requested a handler starts unless `IRQ_ORDER` makes it wait; with `ANY` the second one still finds
its trigger, and the two effects commute. -/
theorem theTwoEventsCommute : Obligations.TheTwoEventsCommute := by
  intro s hirq hgie hrxIe hpending htxIe hready
  have hrx (ho : s.cfg.irqOrder ≠ .txFirst) : s.canStart .rx = true :=
    (canStart_rx_iff s).mpr ⟨hirq, hgie, hrxIe, hpending, fun hwait => ho hwait.1⟩
  have htx (ho : s.cfg.irqOrder ≠ .rxFirst) : s.canStart .tx = true :=
    (canStart_tx_iff s).mpr ⟨hirq, hgie, htxIe, hready, fun hwait => ho hwait.1⟩
  refine ⟨fun hany a b c d ha hb hc hd => ?_, fun ho a ha => ?_, fun ho c hc => ?_, fun ho => ?_, fun ho => ?_⟩
  · obtain rfl := exec_evRx_done (hrx (by simp [hany])) ha
    obtain rfl := exec_evTx_done (htx (by simp [hany])) hc
    have hthenTx : s.evRxDone.canStart .tx = true :=
      (canStart_tx_iff _).mpr ⟨rfl, rfl, htxIe, hready, fun hwait => nomatch hany.symm.trans hwait.1⟩
    have hthenRx : s.evTxDone.canStart .rx = true :=
      (canStart_rx_iff _).mpr ⟨rfl, rfl, hrxIe, hpending, fun hwait => nomatch hany.symm.trans hwait.1⟩
    rw [exec_evTx_done hthenTx hb, exec_evRx_done hthenRx hd, evRxDone_evTxDone]
  · rw [exec_evRx_done (hrx ho) ha]; rfl
  · rw [exec_evTx_done (htx ho) hc]; exact evTxDone_withdraws_request s
  · refine runHandler_of_not_canStart fun hstart => ?_
    obtain ⟨-, -, -, -, hfirst⟩ := (canStart_tx_iff s).mp hstart
    exact hfirst ⟨ho, hrxIe, hpending⟩
  · refine runHandler_of_not_canStart fun hstart => ?_
    obtain ⟨-, -, -, -, hfirst⟩ := (canStart_rx_iff s).mp hstart
    exact hfirst ⟨ho, htxIe, hready⟩

end Sys2Proof.Machine
end

section
/-! Quiescence (R229): no agent has anything to do, so no turn changes the machine. -/

namespace Sys2Proof.Machine

section
variable {s : State}

/-- No request line is up while interrupts are enabled, so no handler starts (R140, R141, R143). -/
theorem not_canStart_of_quiescent (h : Quiescent s) (v : EventVector) : s.canStart v ≠ true := by
  obtain ⟨-, -, -, hrx, htx, -⟩ := h
  intro hstart
  cases v with
  | rx =>
    obtain ⟨-, hgie, hie, hpending, -⟩ := (canStart_rx_iff s).mp hstart
    simp [hgie, hie, hpending] at hrx
  | tx =>
    obtain ⟨-, hgie, hie, hready, -⟩ := (canStart_tx_iff s).mp hstart
    simp [hgie, hie, hready] at htx

/-- No byte is to come on the line (log 1). -/
theorem arrive_of_no_byte (hw : s.inputs.wireIn = []) : arrive s = s := by simp [arrive, hw]

/-- MAIN waits, no handler starts, and the line device has no byte to deliver or to take. -/
theorem agentStep_of_quiescent (h : Quiescent s) (a : Agent) : agentStep a s = .next s := by
  have hnoStart := not_canStart_of_quiescent h
  obtain ⟨hop, hcmds, hwire, -, -, hidle⟩ := h
  cases a with
  | main => exact mainStep_of_no_command hop hcmds
  | irq v =>
    cases v with
    | rx => exact runHandler_of_not_canStart (hnoStart .rx)
    | tx => exact runHandler_of_not_canStart (hnoStart .tx)
  | lineRx => exact congrArg Host.Outcome.next (arrive_of_no_byte hwire)
  | lineTx => exact congrArg Host.Outcome.next (take_disabled hidle.symm)

end

/-- Settles O54: the choice of the agent touches the schedule and the draw counter, of which quiescence does not speak, and the turn
of whichever agent it is changes nothing. -/
theorem quiescentStatesStay : Obligations.QuiescentStatesStay := by
  intro s t h hstep
  obtain ⟨sch, d, hu⟩ := nextAgent_inputs s
  have hquiet : Quiescent { s with inputs.schedule := sch, inputs.draws := d } := h
  rw [step, machineStep, hu, agentStep_of_quiescent hquiet] at hstep
  cases hstep
  exact ⟨hquiet, sch, d, rfl⟩

end Sys2Proof.Machine
end
